-- ==== Sys2Proof/Word.lean ====
section
/-! DEFINITION. BYTE_WIDTH, and the machine's value types (spec 00_scope.md R5, R11; 20_memory.md R42).

Every wire field, every register that holds a wire byte and the checksum sum are BYTE_WIDTH bits wide.
No field spans two bytes, so there is no byte order and no wider word. -/

namespace Sys2Proof

/-- BYTE_WIDTH: the width of every wire field and of the sum (R5). The byte type is made of it, so it stands here; the
other parameters of R5 are in Config.lean. `simp` unfolds it, so that a byte literal keeps one spelling in proofs. -/
@[simp] abbrev Config.byteWidth : Nat := 8

/-- `u8`: one byte, bits numbered 7 down to 0, bit 0 the value-1 bit (R11, R43). An `i8` is the same 8 bits (R11). -/
abbrev Byte := BitVec Config.byteWidth

/-- `u4`: the payload index (R24). -/
abbrev PayloadIndex := BitVec 4

end Sys2Proof
end

