-- ==== Sys2Proof/Config.lean ====
section
/-! DEFINITION. The block's fixed parameters (spec 00_scope.md R5), the two cycle-level parameters it leaves to the
implementation (92_eei_decisions.md D2, 93_implementation_defined.md U8), and the model's free values (U2).

The values of R5 are normative; each is written once, here (BYTE_WIDTH, of which the byte type is made, in Word.lean), and
named everywhere else in the model (R5, D21). -/

namespace Sys2Proof.Config

/-- HDR1: header byte 1, frame position 0 (R5). -/
abbrev hdr1 : Byte := 0x57

/-- HDR2: header byte 2, frame position 1 (R5). -/
abbrev hdr2 : Byte := 0xAB

/-- MARKER: the command marker, frame position 2 (R5). -/
abbrev marker : Byte := 0x00

/-- CMD_MOUSE: the command code of a mouse frame (R5, R63). -/
abbrev cmdMouse : Byte := 0x01

/-- CMD_KBD: the command code of a keyboard frame (R5, R63). -/
abbrev cmdKbd : Byte := 0x02

/-- LEN_MOUSE: the payload length of a mouse frame (R5, R64). -/
abbrev lenMouse : Byte := 0x05

/-- LEN_KBD: the payload length of a keyboard frame (R5, R64). -/
abbrev lenKbd : Byte := 0x08

/-- PAYLOAD_MAX: the payload buffer's size in bytes (R5, R25). -/
abbrev payloadMax : Nat := 8

/-- KEY_SLOTS: the keycode slots of one keyboard report (R5). -/
abbrev keySlots : Nat := 6

/-- NO_KEY: the "no key" sentinel keycode (R5, R71). -/
abbrev noKey : Byte := 0x00

/-- STEP_LATENCY is 1 cycle or more; this is what it has above 1, for the step of a given number (R227, D2, U8).
Left open by the spec, and no rule reads it. -/
opaque latencyBeyondOne : Nat → Nat

/-- STEP_LATENCY of the step of a given number (R227). No rule reads it. -/
def stepLatency (n : Nat) : Nat := latencyBeyondOne n + 1

/-- KEV_SERIAL: whether key events leave one per transfer (R227, D2, U8). Left open by the spec, and no rule reads it. -/
opaque kevSerial : Bool

/-- FREE VALUE (log entry 3). What `cmd` holds after the `rst` operation: R220 leaves it unspecified (D7, U2). -/
opaque freeCmd : Nat → Byte

/-- FREE VALUE (log entry 3). What `len` holds after the `rst` operation: R220 leaves it unspecified (D7, U2). -/
opaque freeLen : Nat → Byte

/-- FREE VALUE (log entry 3). What `idx` holds after the `rst` operation: R220 leaves it unspecified (D7, U2). -/
opaque freeIdx : Nat → PayloadIndex

/-- FREE VALUE (log entry 3). What `pay` holds after the `rst` operation: R220 leaves it unspecified (D7, U2). -/
opaque freePay : Nat → Vector Byte payloadMax

end Sys2Proof.Config
end

