-- ==== Sys2Proof/Syntax.lean ====
section
/-! DEFINITION. What the block decodes (spec 30_encoding.md R60, R78): a byte read in the current framer state, and
at the frame level a whole frame. One constructor of `Instr` for each of the 17 rows of spec/opcode_table.json. -/

namespace Sys2Proof

/-- The framer state `pst`: exactly one of seven values (R21). Code 7 is not a state and cannot occur here (R21, D11). -/
inductive ParserState where
  /-- AwaitHeaderByte1, the initial state. -/
  | h1
  /-- AwaitHeaderByte2. -/
  | h2
  /-- AwaitCommandMarker. -/
  | cm
  /-- AwaitCommand. -/
  | cmd
  /-- AwaitLength. -/
  | len
  /-- ReadPayload. -/
  | pl
  /-- AwaitChecksum. -/
  | ck
  deriving DecidableEq, Repr

/-- What a byte is read in the light of: `pst`, and the registers the rows' guards read, `cmd`, `len` and `idx`
(R28, R78). No other state changes how a byte is decoded (R48). -/
structure FramerCtx where
  pst : ParserState
  cmd : Byte
  len : Byte
  idx : PayloadIndex
  deriving DecidableEq, Repr

/-- One constructor per row of the opcode table. A row whose byte is fixed has no operand; a row that takes any other
byte carries the byte `b`. The two frame rows carry their field bytes and the checksum byte `c`. -/
inductive Instr where
  /-- H1_HDR1 (R101). -/
  | h1Hdr1
  /-- H1_IDLE (R102). -/
  | h1Idle (b : Byte)
  /-- H2_HDR2 (R103). -/
  | h2Hdr2
  /-- H2_ERR (R104). -/
  | h2Err (b : Byte)
  /-- CM_MARK (R105). -/
  | cmMark
  /-- CM_ERR (R106). -/
  | cmErr (b : Byte)
  /-- CMD_MOUSE (R107). -/
  | cmdMouse
  /-- CMD_KBD (R108). -/
  | cmdKbd
  /-- CMD_ERR (R109). -/
  | cmdErr (b : Byte)
  /-- LEN_MOUSE (R110). -/
  | lenMouse
  /-- LEN_KBD (R111). -/
  | lenKbd
  /-- LEN_ERR (R112). -/
  | lenErr (b : Byte)
  /-- PL_BYTE (R113). -/
  | plByte (b : Byte)
  /-- PL_LAST (R114). -/
  | plLast (b : Byte)
  /-- CK_BYTE (R115). -/
  | ckByte (b : Byte)
  /-- FRAME_MOUSE (R61, R67): buttons, dx, dy, wheel, reserved, checksum byte. -/
  | frameMouse (bt dx dy wh rsv c : Byte)
  /-- FRAME_KBD (R61, R68): modifier, reserved, keycode0 to keycode5, checksum byte. -/
  | frameKbd (md rsv k0 k1 k2 k3 k4 k5 c : Byte)
  deriving DecidableEq, Repr

/-- Whether the row is of the table's `byte-in-state` format, one input byte (R78). -/
def Instr.isByteRow : Instr → Bool
  | .h1Hdr1 | .h1Idle _ | .h2Hdr2 | .h2Err _ | .cmMark | .cmErr _ | .cmdMouse | .cmdKbd | .cmdErr _
  | .lenMouse | .lenKbd | .lenErr _ | .plByte _ | .plLast _ | .ckByte _ => true
  | .frameMouse _ _ _ _ _ _ | .frameKbd _ _ _ _ _ _ _ _ _ => false

end Sys2Proof
end

