-- ==== Sys2Proof/WellFormed.lean ====
section
/-! DEFINITION. Which terms of `Instr` are instructions (spec 40_framer.md R101 to R115, "Encoding"), and which of them
a given framer context admits (30_encoding.md R78). -/

namespace Sys2Proof

/-- The check on the operands alone. An "any other byte" row excludes the byte its state's matching row takes
(R102, R104, R106, R109). LEN_ERR's byte may be any value: which bytes it excludes depends on `cmd` (R112). Every byte
is a payload byte (R113), a checksum byte (R115) and a field byte (R67, R68). -/
def Instr.wellFormed : Instr → Bool
  | .h1Idle b => b != Config.hdr1
  | .h2Err b => b != Config.hdr2
  | .cmErr b => b != Config.marker
  | .cmdErr b => b != Config.cmdMouse && b != Config.cmdKbd
  | .h1Hdr1 | .h2Hdr2 | .cmMark | .cmdMouse | .cmdKbd | .lenMouse | .lenKbd | .lenErr _ | .plByte _ | .plLast _
  | .ckByte _ | .frameMouse _ _ _ _ _ _ | .frameKbd _ _ _ _ _ _ _ _ _ => true

/-- The check against the framer's context: `fields.state` and `fields.guard` of the row (R78). A frame row is
recognized only where its first byte arrives in H1 (R119). -/
def Instr.contextOk (ctx : FramerCtx) : Instr → Bool
  | .h1Hdr1 | .h1Idle _ | .frameMouse _ _ _ _ _ _ | .frameKbd _ _ _ _ _ _ _ _ _ => ctx.pst == .h1
  | .h2Hdr2 | .h2Err _ => ctx.pst == .h2
  | .cmMark | .cmErr _ => ctx.pst == .cm
  | .cmdMouse | .cmdKbd | .cmdErr _ => ctx.pst == .cmd
  | .lenMouse => ctx.pst == .len && ctx.cmd == Config.cmdMouse
  | .lenKbd => ctx.pst == .len && ctx.cmd == Config.cmdKbd
  | .lenErr b =>
    ctx.pst == .len && !(ctx.cmd == Config.cmdMouse && b == Config.lenMouse)
      && !(ctx.cmd == Config.cmdKbd && b == Config.lenKbd)
  | .plByte _ => ctx.pst == .pl && decide (ctx.idx.toNat + 1 < ctx.len.toNat)
  | .plLast _ => ctx.pst == .pl && decide (ctx.idx.toNat + 1 = ctx.len.toNat)
  | .ckByte _ => ctx.pst == .ck

/-- The instruction is well formed and its row applies in the context. -/
def Instr.appliesIn (ctx : FramerCtx) (i : Instr) : Bool := i.wellFormed && i.contextOk ctx

end Sys2Proof
end

