-- ==== Sys2Proof/Decode.lean ====
section
/-! DEFINITION. The decoder, the encoder and the table words (spec 30_encoding.md R60 to R66, R76, R78).

The byte decoder reads the opcode table row by row, as R78 says to read it; the frame decoder reads the two bit
patterns. Both are total and reject by name. -/

namespace Sys2Proof

/-- Why a byte or a byte list is no instruction. -/
inductive DecodeError where
  /-- No row of the table applies in this context. Only `pst = PL` with `idx >= len` answers so, and R29 rules that out. -/
  | noRow
  /-- The bytes end before the frame does. -/
  | truncated
  /-- Position 0 is not HDR1 (R62, R76). -/
  | badHeader1
  /-- Position 1 is not HDR2 (R62, R76). -/
  | badHeader2
  /-- Position 2 is not MARKER (R62, R76). -/
  | badMarker
  /-- Position 3 is neither CMD_MOUSE nor CMD_KBD (R63, R76). -/
  | badCommand
  /-- Position 4 is not the length the command code mandates (R64, R76). -/
  | badLength
  deriving DecidableEq, Repr

/-- One `byte-in-state` row of the table: it applies to byte `b` in context `ctx` when `ctx.pst = state`,
`b & mask = pattern` and the guard holds; among the rows that apply the lowest `priority` wins (R78). -/
structure Row where
  mnemonic : String
  state : ParserState
  mask : Byte
  pattern : Byte
  priority : Nat
  guard : FramerCtx → Bool
  build : Byte → Instr

/-- The guard of a row that has none. -/
def noGuard (_ : FramerCtx) : Bool := true

/-- The 15 `byte-in-state` rows of spec/opcode_table.json, in its order, which is ascending in `priority` within a
state (R78). -/
def opcodeTable : List Row :=
  [ ⟨"H1_HDR1", .h1, 0xFF, Config.hdr1, 0, noGuard, fun _ => .h1Hdr1⟩,
    ⟨"H1_IDLE", .h1, 0x00, 0x00, 1, noGuard, .h1Idle⟩,
    ⟨"H2_HDR2", .h2, 0xFF, Config.hdr2, 0, noGuard, fun _ => .h2Hdr2⟩,
    ⟨"H2_ERR", .h2, 0x00, 0x00, 1, noGuard, .h2Err⟩,
    ⟨"CM_MARK", .cm, 0xFF, Config.marker, 0, noGuard, fun _ => .cmMark⟩,
    ⟨"CM_ERR", .cm, 0x00, 0x00, 1, noGuard, .cmErr⟩,
    ⟨"CMD_MOUSE", .cmd, 0xFF, Config.cmdMouse, 0, noGuard, fun _ => .cmdMouse⟩,
    ⟨"CMD_KBD", .cmd, 0xFF, Config.cmdKbd, 0, noGuard, fun _ => .cmdKbd⟩,
    ⟨"CMD_ERR", .cmd, 0x00, 0x00, 1, noGuard, .cmdErr⟩,
    ⟨"LEN_MOUSE", .len, 0xFF, Config.lenMouse, 0, fun ctx => decide (ctx.cmd = Config.cmdMouse), fun _ => .lenMouse⟩,
    ⟨"LEN_KBD", .len, 0xFF, Config.lenKbd, 0, fun ctx => decide (ctx.cmd = Config.cmdKbd), fun _ => .lenKbd⟩,
    ⟨"LEN_ERR", .len, 0x00, 0x00, 1, noGuard, .lenErr⟩,
    ⟨"PL_BYTE", .pl, 0x00, 0x00, 0, fun ctx => decide (ctx.idx.toNat + 1 < ctx.len.toNat), .plByte⟩,
    ⟨"PL_LAST", .pl, 0x00, 0x00, 0, fun ctx => decide (ctx.idx.toNat + 1 = ctx.len.toNat), .plLast⟩,
    ⟨"CK_BYTE", .ck, 0x00, 0x00, 0, noGuard, .ckByte⟩ ]

/-- The three conditions of R78 under which a row applies. -/
def Row.applies (r : Row) (ctx : FramerCtx) (b : Byte) : Bool :=
  decide (r.state = ctx.pst) && decide (b &&& r.mask = r.pattern) && r.guard ctx

/-- The byte decoder: the first row that applies (R78). Every (state, byte) pair has one (R60), but for the
contexts of `DecodeError.noRow`. -/
def decodeByte (ctx : FramerCtx) (b : Byte) : Except DecodeError Instr :=
  match opcodeTable.find? (fun r => r.applies ctx b) with
  | some r => .ok (r.build b)
  | none => .error .noRow

/-- The six field and checksum bytes of a mouse frame (R67). -/
def decodeMouseBody : List Byte → Except DecodeError (Instr × List Byte)
  | bt :: dx :: dy :: wh :: rsv :: c :: rest => .ok (.frameMouse bt dx dy wh rsv c, rest)
  | _ => .error .truncated

/-- The nine field and checksum bytes of a keyboard frame (R68). -/
def decodeKbdBody : List Byte → Except DecodeError (Instr × List Byte)
  | md :: rsv :: k0 :: k1 :: k2 :: k3 :: k4 :: k5 :: c :: rest => .ok (.frameKbd md rsv k0 k1 k2 k3 k4 k5 c, rest)
  | _ => .error .truncated

/-- The frame decoder: the instruction a byte list starts with, and the bytes after it (R61 to R65). The checksum byte
may have any value (R66). -/
def decodeFrame : List Byte → Except DecodeError (Instr × List Byte)
  | b0 :: b1 :: b2 :: b3 :: b4 :: body =>
    if b0 ≠ Config.hdr1 then .error .badHeader1
    else if b1 ≠ Config.hdr2 then .error .badHeader2
    else if b2 ≠ Config.marker then .error .badMarker
    else if b3 = Config.cmdMouse then
      if b4 = Config.lenMouse then decodeMouseBody body else .error .badLength
    else if b3 = Config.cmdKbd then
      if b4 = Config.lenKbd then decodeKbdBody body else .error .badLength
    else .error .badCommand
  | _ => .error .truncated

/-- The bytes of an instruction, in arrival order (R61; R101 to R115, "Encoding"). -/
def encode : Instr → List Byte
  | .h1Hdr1 => [Config.hdr1]
  | .h1Idle b => [b]
  | .h2Hdr2 => [Config.hdr2]
  | .h2Err b => [b]
  | .cmMark => [Config.marker]
  | .cmErr b => [b]
  | .cmdMouse => [Config.cmdMouse]
  | .cmdKbd => [Config.cmdKbd]
  | .cmdErr b => [b]
  | .lenMouse => [Config.lenMouse]
  | .lenKbd => [Config.lenKbd]
  | .lenErr b => [b]
  | .plByte b => [b]
  | .plLast b => [b]
  | .ckByte b => [b]
  | .frameMouse bt dx dy wh rsv c =>
    [Config.hdr1, Config.hdr2, Config.marker, Config.cmdMouse, Config.lenMouse, bt, dx, dy, wh, rsv, c]
  | .frameKbd md rsv k0 k1 k2 k3 k4 k5 c =>
    [Config.hdr1, Config.hdr2, Config.marker, Config.cmdKbd, Config.lenKbd, md, rsv, k0, k1, k2, k3, k4, k5, c]

/-- The `n` bytes of a table word, the first byte in bits 7 to 0 (log entry 7). -/
def wordBytes : Nat → Nat → List Byte
  | 0, _ => []
  | n + 1, w => BitVec.ofNat Config.byteWidth w :: wordBytes n (w / 2 ^ Config.byteWidth)

/-- The bytes of a frame around its payload: positions 0 to 4 and the checksum byte (R61). -/
def frameOverhead : Nat := 6

/-- The number of bits the table gives a `byte-in-state` row: one byte (R78). -/
def byteRowBits : Nat := Config.byteWidth

/-- The number of bits the table gives the row FRAME_MOUSE: 11 bytes (R65). -/
def mouseFrameBits : Nat := (frameOverhead + Config.lenMouse.toNat) * Config.byteWidth

/-- The number of bits the table gives the row FRAME_KBD: 14 bytes (R65). -/
def kbdFrameBits : Nat := (frameOverhead + Config.lenKbd.toNat) * Config.byteWidth

/-- The number of bits the table gives an instruction's row (R65, R78). -/
def Instr.tableBits : Instr → Nat
  | .h1Hdr1 | .h1Idle _ | .h2Hdr2 | .h2Err _ | .cmMark | .cmErr _ | .cmdMouse | .cmdKbd | .cmdErr _
  | .lenMouse | .lenKbd | .lenErr _ | .plByte _ | .plLast _ | .ckByte _ => byteRowBits
  | .frameMouse _ _ _ _ _ _ => mouseFrameBits
  | .frameKbd _ _ _ _ _ _ _ _ _ => kbdFrameBits

/-- The context a bare table byte is read in (log entry 7): the state whose row has that byte as its fixed value, and
H1 for a byte that is no row's fixed value. The table's word leaves out the state, which is part of a row's encoding. -/
def tableContext (b : Byte) : FramerCtx :=
  if b = Config.hdr2 then ⟨.h2, 0, 0, 0⟩
  else if b = Config.marker then ⟨.cm, 0, 0, 0⟩
  else if b = Config.cmdMouse ∨ b = Config.cmdKbd then ⟨.cmd, 0, 0, 0⟩
  else if b = Config.lenMouse then ⟨.len, Config.cmdMouse, 0, 0⟩
  else if b = Config.lenKbd then ⟨.len, Config.cmdKbd, 0, 0⟩
  else ⟨.h1, 0, 0, 0⟩

/-- The instruction of a frame's bytes, if they are one whole frame and nothing more. -/
def decodeWholeFrame (bs : List Byte) : Option Instr :=
  match decodeFrame bs with
  | .ok (i, []) => some i
  | _ => none

/-- The instruction the decoder reads from a table word of `nbits` bits (log entry 7). -/
def decodeTableWord (nbits w : Nat) : Option Instr :=
  if nbits = byteRowBits then
    let b := BitVec.ofNat Config.byteWidth w
    (decodeByte (tableContext b) b).toOption
  else if nbits = mouseFrameBits ∨ nbits = kbdFrameBits then decodeWholeFrame (wordBytes (nbits / Config.byteWidth) w)
  else none

end Sys2Proof
end

