-- ==== Sys2Proof/Machine/State.lean ====
section
/-! DEFINITION. The machine's state (spec 10_state.md R20 to R33), its events (00_scope.md R9), its discard reasons
(60_exceptions.md R201), its inputs (00_scope.md R8), and the state after reset (R31).

The block has no memory, no program counter, no flags and no control registers (R20, R28, R40), so State has none. -/

namespace Sys2Proof.Machine

/-- A mouse report, the content of port `mrep` (R8, R75). -/
structure MouseReport where
  btn : BitVec 3
  xbtn : BitVec 2
  dx : Byte
  dy : Byte
  vwheel : Byte
  hwheel : Byte
  deriving DecidableEq, Repr

/-- An output event (R9). -/
inductive Event where
  /-- `KeyUp(k)`, sent on `kev` as `(k, false)`. -/
  | keyUp (k : Byte)
  /-- `KeyDown(k)`, sent on `kev` as `(k, true)`. -/
  | keyDown (k : Byte)
  /-- `Mouse(..)`, sent on `mrep`. -/
  | mouse (r : MouseReport)
  deriving DecidableEq, Repr

/-- The discard reasons of R201, recorded in the ghost trace only (R12, D10). Its sixth, INVARIANT_VIOLATION, is
`Fault.invariantViolation`, which ends the run (R143). -/
inductive Discard where
  | framingHdr2
  | framingMarker
  | framingCommand
  | framingLength
  | checksumMismatch
  deriving DecidableEq, Repr

/-- What the environment does to the block next (R8, R213). -/
inductive Input where
  /-- One byte on port `in` (R8, R41). -/
  | byte (b : Byte)
  /-- Bytes presented back to back and taken as one transaction, which is what a frame-level row is run by (log entry 5). -/
  | burst (bs : List Byte)
  /-- Port `rst`, taken between steps, once every event of the latest step is accepted (R220). -/
  | rst
  /-- Port `rst` while the latest step's events are still being delivered, `k` of them accepted so far (R221, U9). -/
  | rstDelivering (k : Nat)
  /-- The sink never accepts the events that are offered to it (R213, U10). -/
  | sinkStall
  deriving DecidableEq, Repr

/-- Why the machine stops. None of these is reached from a state that meets R29, but for `sinkStalled`, which the
environment brings about. -/
inductive Fault where
  /-- `raise InvariantViolation`: dispatch of a validated packet whose command is neither 0x01 nor 0x02 (R143).
  Raised by CK_BYTE; unreachable. Safe. -/
  | invariantViolation
  /-- A payload byte outside the payload is written or read: R49 says no such access can occur.
  Raised by PL_BYTE, PL_LAST and CK_BYTE; unreachable. Safe. -/
  | payloadOutOfRange
  /-- The sink never accepts an offered event, and the block takes no further step (R213, U10: stuck).
  Raised by the input `sinkStall`. Safe. -/
  | sinkStalled
  deriving DecidableEq, Repr

/-- Why a step has no meaning. -/
inductive Refusal where
  /-- An instruction that has no meaning yet: none is left. Safe. -/
  | notModelled (mnemonic : String)
  /-- No rule of R101 to R115 applies: `pst = PL` with `idx >= len`, which R29 rules out.
  Raised by the step and by the framer; unreachable. Safe. -/
  | noTransition
  deriving DecidableEq, Repr

/-- All the block retains (R20), then what the model keeps beside it. -/
structure State where
  /-- The framer state (R21). -/
  pst : ParserState
  /-- The recorded command code (R22). -/
  cmd : Byte
  /-- The recorded payload length (R23). -/
  len : Byte
  /-- The payload index (R24). -/
  idx : PayloadIndex
  /-- The payload buffer `pay[0..7]` (R25). -/
  pay : Vector Byte Config.payloadMax
  /-- The previous modifier byte (R27). -/
  snapMod : Byte
  /-- The previous keycode slots `snap_key[0..5]`, raw (R27). -/
  snapKey : Vector Byte Config.keySlots
  /-- THE MODEL'S OWN: the inputs not yet taken, next first (R10, R41). -/
  input : List Input
  /-- THE MODEL'S OWN: the events of earlier steps, all accepted by the sink, oldest first (R10, R224). -/
  delivered : List Event
  /-- THE MODEL'S OWN: the event list of the latest step, in order (R7, R32). -/
  events : List Event
  /-- THE MODEL'S OWN: the ghost trace of discard reasons, oldest first (R12). -/
  notes : List Discard
  /-- THE MODEL'S OWN: which draw of the free values the next `rst` makes (log entry 3). -/
  free : Nat
  deriving DecidableEq, Repr

/-- The state right after reset (R31, R220). R31 gives `pst`, `snap_mod` and `snap_key`; it leaves `cmd`, `len`, `idx`
and `pay` unspecified, and their zeros are the model's (log entry 2). -/
def State.reset : State where
  pst := .h1
  cmd := 0
  len := 0
  idx := 0
  pay := Vector.replicate Config.payloadMax 0
  snapMod := 0
  snapKey := Vector.replicate Config.keySlots Config.noKey
  input := []
  delivered := []
  events := []
  notes := []
  free := 0

/-- The context a byte is decoded in (R28, R78). -/
def State.ctx (s : State) : FramerCtx := ⟨s.pst, s.cmd, s.len, s.idx⟩

end Sys2Proof.Machine
end

