-- ==== Sys2Proof/Machine/Operands.lean ====
section
/-! DEFINITION. The operand forms (spec 40_framer.md R115, 43_keyboard_diff.md R150 and R151, 44_mouse_report.md R170
to R173, 00_scope.md R11): the transient Packet and the fields the translators read out of its payload. -/

namespace Sys2Proof.Machine

/-- The transient Packet of one step (R32, R115): never retained. -/
structure Packet where
  command : Byte
  length : Byte
  payload : List Byte
  checksum : Byte
  deriving DecidableEq, Repr

/-- The Packet the framer emits at the CK byte `b`: `payload = pay[0..len-1]` (R115). `none` where that slice runs past
the buffer, which R49 rules out. -/
def State.packet? (s : State) (b : Byte) : Option Packet :=
  if s.len.toNat ≤ Config.payloadMax then some ⟨s.cmd, s.len, s.pay.toList.take s.len.toNat, b⟩ else none

/-- The operands of a keyboard packet: `mod = p[0]`, `rsv = p[1]`, `new = p[2..7]` (R68, R150). -/
def kbdOperands : List Byte → Option (Byte × Byte × Vector Byte Config.keySlots)
  | md :: rsv :: k0 :: k1 :: k2 :: k3 :: k4 :: k5 :: _ => some (md, rsv, #v[k0, k1, k2, k3, k4, k5])
  | _ => none

/-- The operands of a mouse packet: buttons, dx, dy, wheel and the reserved byte (R67, R170). -/
def mouseOperands : List Byte → Option (Byte × Byte × Byte × Byte × Byte)
  | bt :: dx :: dy :: wh :: rsv :: _ => some (bt, dx, dy, wh, rsv)
  | _ => none

/-- `btn = bt[2:0]`: left, right and middle in bits 0, 1, 2 (R69, R171). -/
def buttonsOf (bt : Byte) : BitVec 3 := bt.extractLsb' 0 3

/-- `xbtn = bt[4:3]`: extra buttons 4 and 5 in bits 0 and 1 (R69, R171). -/
def extraButtonsOf (bt : Byte) : BitVec 2 := bt.extractLsb' 3 2

/-- `sint8`: how the sink reads an `i8` field (R11). The block itself never uses it: the bits pass unchanged (R172). -/
def sint8 (v : Byte) : Int :=
  if v.toNat < 2 ^ (Config.byteWidth - 1) then v.toNat else (v.toNat : Int) - 2 ^ Config.byteWidth

/-- `k` is in the key set `Keys(a)` of a slot array (R151). -/
def inKeys (k : Byte) (a : List Byte) : Prop := k ≠ Config.noKey ∧ k ∈ a

end Sys2Proof.Machine
end

