-- ==== Sys2Proof/Machine/Flags.lean ====
section
/-! DEFINITION. The checksum verdict (spec 41_checksum.md R130 to R132). The block has no flags and no condition codes
(10_state.md R28); `ok` is a transient value of one step (R32). -/

namespace Sys2Proof.Machine

/-- The 8-bit sum of a byte list, wrapping modulo 256 at every addition (R130). -/
def byteSum (bs : List Byte) : Byte := bs.foldl (· + ·) 0

/-- `s` of R130: the header constants, the command code, the length byte and the payload bytes, modulo 256. -/
def packetSum (p : Packet) : Byte :=
  byteSum (Config.hdr1 :: Config.hdr2 :: Config.marker :: p.command :: p.length :: p.payload)

/-- `validate(p)` (R130). -/
def validate (p : Packet) : Bool := packetSum p == p.checksum

/-- The correct checksum byte of a frame with these bytes before it (R61, R66). -/
def frameChecksum (bs : List Byte) : Byte := byteSum bs

/-- The pseudo-frame `MOUSE(bt, dx, dy, wh, rsv)`: the frame with its correct checksum (R77). -/
def pseudoMouse (bt dx dy wh rsv : Byte) : Instr :=
  .frameMouse bt dx dy wh rsv (frameChecksum
    [Config.hdr1, Config.hdr2, Config.marker, Config.cmdMouse, Config.lenMouse, bt, dx, dy, wh, rsv])

/-- The pseudo-frame `KBD(mod, rsv, k0, k1, k2, k3, k4, k5)`: the frame with its correct checksum (R77). -/
def pseudoKbd (md rsv k0 k1 k2 k3 k4 k5 : Byte) : Instr :=
  .frameKbd md rsv k0 k1 k2 k3 k4 k5 (frameChecksum
    [Config.hdr1, Config.hdr2, Config.marker, Config.cmdKbd, Config.lenKbd, md, rsv, k0, k1, k2, k3, k4, k5])

end Sys2Proof.Machine
end

