-- ==== Sys2Proof/Machine/Ops.lean ====
section
/-! DEFINITION. The named operations over the registers and the output (spec 00_scope.md R12): every register write,
`emit`, `note`, the framing-error action of R202, which is the block's whole "trap entry" and has no return, and the
reset operation of R220 and R221. -/

namespace Sys2Proof.Machine

/-- Continue with the next state of an outcome; a fault or a refusal stays. -/
def andThen (o : Host.Outcome State Fault Refusal) (k : State → Host.Outcome State Fault Refusal) :
    Host.Outcome State Fault Refusal :=
  match o with
  | .next s => k s
  | .fault r => .fault r
  | .refused r => .refused r

/-- The discard code of R201. -/
def Discard.code : Discard → Nat
  | .framingHdr2 => 1
  | .framingMarker => 2
  | .framingCommand => 3
  | .framingLength => 4
  | .checksumMismatch => 5

/-- The code R201 gives a fault: INVARIANT_VIOLATION has one, the model's own faults have none. -/
def Fault.code : Fault → Option Nat
  | .invariantViolation => some 6
  | .payloadOutOfRange => none
  | .sinkStalled => none

/-- The 3-bit code of a framer state (R21). -/
def pstCode : ParserState → BitVec 3
  | .h1 => 0
  | .h2 => 1
  | .cm => 2
  | .cmd => 3
  | .len => 4
  | .pl => 5
  | .ck => 6

/-- The framer state an implementation takes a 3-bit code for: code 7 is treated as H1 (D11). The machine holds no codes. -/
def pstOfCode (c : BitVec 3) : ParserState :=
  if c = 1 then .h2 else if c = 2 then .cm else if c = 3 then .cmd else if c = 4 then .len
  else if c = 5 then .pl else if c = 6 then .ck else .h1

/-- What an event carries on port `kev`, if it is sent there: `(code, pressed)` (R8, R74). -/
def Event.onKev : Event → Option (Byte × Bool)
  | .keyUp k => some (k, false)
  | .keyDown k => some (k, true)
  | .mouse _ => none

/-- What an event carries on port `mrep`, if it is sent there (R8, R75). -/
def Event.onMrep : Event → Option MouseReport
  | .keyUp _ => none
  | .keyDown _ => none
  | .mouse r => some r

/-- The observed event sequence so far, over both channels together (R9, R10, R46). -/
def State.observed (s : State) : List Event := s.delivered ++ s.events

/-- A step starts: the sink has accepted every event of the step before (R224), and this step's list is empty (R140). -/
def State.beginStep (s : State) : State := { s with delivered := s.delivered ++ s.events, events := [] }

/-- `pst <- p`. -/
def State.setPst (s : State) (p : ParserState) : State := { s with pst := p }

/-- `cmd <- c`. -/
def State.setCmd (s : State) (c : Byte) : State := { s with cmd := c }

/-- `len <- n; idx <- 0` (R110, R111). -/
def State.openPayload (s : State) (n : Byte) : State := { s with len := n, idx := 0 }

/-- `note d` (R12). -/
def State.note (s : State) (d : Discard) : State := { s with notes := s.notes ++ [d] }

/-- `emit` each event of the list in order (R12). -/
def State.emit (s : State) (es : List Event) : State := { s with events := s.events ++ es }

/-- `snap_mod <- mod; snap_key[0..5] <- new[0..5]` (R155). -/
def State.setSnapshot (s : State) (md : Byte) (new : Vector Byte Config.keySlots) : State :=
  { s with snapMod := md, snapKey := new }

/-- A transition that only moves the framer to `p`. -/
def State.moveTo (s : State) (p : ParserState) : Host.Outcome State Fault Refusal := .next (s.beginStep.setPst p)

/-- The framing-error action (R202): `pst <- H1`, the reason noted, the byte dropped, nothing else touched. -/
def State.framingError (s : State) (d : Discard) : Host.Outcome State Fault Refusal :=
  .next ((s.beginStep.setPst .h1).note d)

/-- `cmd <- c; pst <- LEN` (R107, R108). -/
def State.recordCommand (s : State) (c : Byte) : Host.Outcome State Fault Refusal :=
  .next ((s.beginStep.setCmd c).setPst .len)

/-- `len <- n; idx <- 0; pst <- PL` (R110, R111). -/
def State.recordLength (s : State) (n : Byte) : Host.Outcome State Fault Refusal :=
  .next ((s.beginStep.openPayload n).setPst .pl)

/-- `pay[idx] <- b; idx <- idx + 1; pst <- p` (R113, R114). A write past the buffer faults; R49 rules it out. -/
def State.appendPayload (s : State) (b : Byte) (p : ParserState) : Host.Outcome State Fault Refusal :=
  if h : s.idx.toNat < Config.payloadMax then
    .next { s.beginStep with pay := s.pay.set s.idx.toNat b h, idx := s.idx + 1, pst := p }
  else .fault .payloadOutOfRange

/-- The reset operation (R220), taken when the first `k` events of the latest step have been accepted (R221): the
framer goes to H1, the snapshot is cleared, no event is emitted, and the events not yet accepted are dropped. `cmd`,
`len`, `idx` and `pay` get free values (log entry 3). -/
def State.applyReset (s : State) (k : Nat) : State :=
  { s with
    pst := .h1
    cmd := Config.freeCmd s.free
    len := Config.freeLen s.free
    idx := Config.freeIdx s.free
    pay := Config.freePay s.free
    snapMod := 0x00
    snapKey := Vector.replicate Config.keySlots Config.noKey
    delivered := s.delivered ++ s.events.take k
    events := []
    free := s.free + 1 }

end Sys2Proof.Machine
end

