-- ==== Sys2Proof/Machine/Keyboard.lean ====
section
/-! DEFINITION. The keyboard event-diff encoder (spec 43_keyboard_diff.md R150 to R156). -/

namespace Sys2Proof.Machine

/-- The keys of `slots` that are not in `other`, each at its first slot, in slot order: the loop that R152 and R153
share. `seen` is the part of the array already passed, `a[0..i-1]`. -/
def keysOnlyIn (other : List Byte) : (seen slots : List Byte) → List Byte
  | _, [] => []
  | seen, k :: slots =>
    if k ≠ Config.noKey ∧ k ∉ other ∧ k ∉ seen then k :: keysOnlyIn other (seen ++ [k]) slots
    else keysOnlyIn other (seen ++ [k]) slots

/-- The release phase (R152). -/
def releases (old new : List Byte) : List Event := (keysOnlyIn new [] old).map .keyUp

/-- The press phase (R153). -/
def presses (old new : List Byte) : List Event := (keysOnlyIn old [] new).map .keyDown

/-- The event list of one keyboard packet: releases before presses (R154). -/
def keyDiff (old new : List Byte) : List Event := releases old new ++ presses old new

/-- `kbd_translate(mod, rsv, new)`: both phases read the old snapshot, which is then replaced (R150 to R156). The
reserved byte is ignored (R73), and the modifier generates no event (R156). -/
def kbdTranslate (md _rsv : Byte) (new : Vector Byte Config.keySlots) (s : State) : State :=
  (s.emit (keyDiff s.snapKey.toList new.toList)).setSnapshot md new

end Sys2Proof.Machine
end

