-- ==== Sys2Proof/Machine/Mouse.lean ====
section
/-! DEFINITION. The mouse report formatter (spec 44_mouse_report.md R170 to R175). -/

namespace Sys2Proof.Machine

/-- The report of a mouse packet: buttons split, motion and wheel unchanged, `hwheel` always 0 (R171 to R174). The
reserved byte and `bt[7:5]` reach no output (R175). -/
def mouseReport (bt dx dy wh _rsv : Byte) : MouseReport :=
  ⟨buttonsOf bt, extraButtonsOf bt, dx, dy, wh, 0x00⟩

/-- `mouse_translate`: exactly one report for each validated mouse packet, and no register written (R174). -/
def mouseTranslate (bt dx dy wh rsv : Byte) (s : State) : State := s.emit [.mouse (mouseReport bt dx dy wh rsv)]

end Sys2Proof.Machine
end

