-- ==== Sys2Proof/Machine/Checksum.lean ====
section
/-! DEFINITION. The CK byte: the Packet is formed, validated, and dispatched or discarded, all in the same step
(spec 40_framer.md R115; 42_dispatch.md R140 to R144). -/

namespace Sys2Proof.Machine

/-- `dispatch(p)`: routes a validated Packet by its command code (R142). Any other code raises InvariantViolation
(R143). A payload shorter than the fields the translator reads faults; R49 rules it out. -/
def dispatch (p : Packet) (s : State) : Host.Outcome State Fault Refusal :=
  if p.command = Config.cmdKbd then
    match kbdOperands p.payload with
    | some (md, rsv, new) => .next (kbdTranslate md rsv new s)
    | none => .fault .payloadOutOfRange
  else if p.command = Config.cmdMouse then
    match mouseOperands p.payload with
    | some (bt, dx, dy, wh, rsv) => .next (mouseTranslate bt dx dy wh rsv s)
    | none => .fault .payloadOutOfRange
  else .fault .invariantViolation

/-- A completed Packet is validated; a packet that fails is discarded with a note and nothing else (R140, R141). -/
def completePacket (p : Packet) (s : State) : Host.Outcome State Fault Refusal :=
  if validate p then dispatch p s else .next (s.note .checksumMismatch)

/-- CK_BYTE (R115, R140): the framer returns to H1 whatever the checksum byte is. -/
def execCkByte (b : Byte) (s : State) : Host.Outcome State Fault Refusal :=
  match s.packet? b with
  | some p => completePacket p (s.beginStep.setPst .h1)
  | none => .fault .payloadOutOfRange

end Sys2Proof.Machine
end

