-- ==== Sys2Proof/Machine/CommandLength.lean ====
section
/-! DEFINITION. The rows of the command and length states CMD and LEN (spec 40_framer.md R107 to R112). -/

namespace Sys2Proof.Machine

/-- CMD_MOUSE (R107). -/
def execCmdMouse (s : State) : Host.Outcome State Fault Refusal := s.recordCommand Config.cmdMouse

/-- CMD_KBD (R108). -/
def execCmdKbd (s : State) : Host.Outcome State Fault Refusal := s.recordCommand Config.cmdKbd

/-- CMD_ERR (R109): `cmd` is not written. -/
def execCmdErr (_b : Byte) (s : State) : Host.Outcome State Fault Refusal := s.framingError .framingCommand

/-- LEN_MOUSE (R110). -/
def execLenMouse (s : State) : Host.Outcome State Fault Refusal := s.recordLength Config.lenMouse

/-- LEN_KBD (R111). -/
def execLenKbd (s : State) : Host.Outcome State Fault Refusal := s.recordLength Config.lenKbd

/-- LEN_ERR (R112): `len` and `idx` are not written. -/
def execLenErr (_b : Byte) (s : State) : Host.Outcome State Fault Refusal := s.framingError .framingLength

end Sys2Proof.Machine
end

