-- ==== Sys2Proof/Machine/Header.lean ====
section
/-! DEFINITION. The rows of the header and marker states H1, H2 and CM (spec 40_framer.md R101 to R106). -/

namespace Sys2Proof.Machine

/-- H1_HDR1 (R101). -/
def execH1Hdr1 (s : State) : Host.Outcome State Fault Refusal := s.moveTo .h2

/-- H1_IDLE (R102): hunting; no error and no note. -/
def execH1Idle (_b : Byte) (s : State) : Host.Outcome State Fault Refusal := s.moveTo .h1

/-- H2_HDR2 (R103). -/
def execH2Hdr2 (s : State) : Host.Outcome State Fault Refusal := s.moveTo .cm

/-- H2_ERR (R104): the byte is dropped even if it is 0x57. -/
def execH2Err (_b : Byte) (s : State) : Host.Outcome State Fault Refusal := s.framingError .framingHdr2

/-- CM_MARK (R105). -/
def execCmMark (s : State) : Host.Outcome State Fault Refusal := s.moveTo .cmd

/-- CM_ERR (R106). -/
def execCmErr (_b : Byte) (s : State) : Host.Outcome State Fault Refusal := s.framingError .framingMarker

end Sys2Proof.Machine
end

