-- ==== Sys2Proof/Machine/Payload.lean ====
section
/-! DEFINITION. The rows of the payload state PL (spec 40_framer.md R113 and R114). -/

namespace Sys2Proof.Machine

/-- PL_BYTE (R113): the framer stays in PL. -/
def execPlByte (b : Byte) (s : State) : Host.Outcome State Fault Refusal := s.appendPayload b .pl

/-- PL_LAST (R114): the framer goes to CK. -/
def execPlLast (b : Byte) (s : State) : Host.Outcome State Fault Refusal := s.appendPayload b .ck

end Sys2Proof.Machine
end

