-- ==== Sys2Proof/Machine/Framer.lean ====
section
/-! DEFINITION. The transition function written as the spec's prose gives it (40_framer.md R100, 42_dispatch.md R140):
selected by `pst`, then by the byte, and by `cmd` in LEN. It does not read the opcode table. -/

namespace Sys2Proof.Machine

/-- `Step(b)` of one byte (R140), by the state machine of R101 to R115. -/
def feedByte (b : Byte) (s : State) : Host.Outcome State Fault Refusal :=
  match s.pst with
  | .h1 => if b = Config.hdr1 then execH1Hdr1 s else execH1Idle b s
  | .h2 => if b = Config.hdr2 then execH2Hdr2 s else execH2Err b s
  | .cm => if b = Config.marker then execCmMark s else execCmErr b s
  | .cmd =>
    if b = Config.cmdMouse then execCmdMouse s else if b = Config.cmdKbd then execCmdKbd s else execCmdErr b s
  | .len =>
    if s.cmd = Config.cmdMouse ∧ b = Config.lenMouse then execLenMouse s
    else if s.cmd = Config.cmdKbd ∧ b = Config.lenKbd then execLenKbd s
    else execLenErr b s
  | .pl =>
    if s.idx.toNat + 1 < s.len.toNat then execPlByte b s
    else if s.idx.toNat + 1 = s.len.toNat then execPlLast b s
    else .refused .noTransition
  | .ck => execCkByte b s

/-- The bytes of a list in arrival order, one step each (R41, R120). -/
def feedBytes : List Byte → State → Host.Outcome State Fault Refusal
  | [], s => .next s
  | b :: bs, s => andThen (feedByte b s) (feedBytes bs)

end Sys2Proof.Machine
end

