-- ==== Sys2Proof/Machine/Frame.lean ====
section
/-! DEFINITION. The frame-level rows (spec 30_encoding.md R60, R61, R78; 40_framer.md R116, R119).

A frame is its bytes, taken one step each, so its effect is defined in every state: from H1 it is recognized (R116), and
from any other state its bytes are read as R119 says. -/

namespace Sys2Proof.Machine

/-- FRAME_MOUSE: the 11 bytes of a mouse frame (R61, R67). -/
def execFrameMouse (bt dx dy wh rsv c : Byte) (s : State) : Host.Outcome State Fault Refusal :=
  feedBytes (encode (.frameMouse bt dx dy wh rsv c)) s

/-- FRAME_KBD: the 14 bytes of a keyboard frame (R61, R68). -/
def execFrameKbd (md rsv k0 k1 k2 k3 k4 k5 c : Byte) (s : State) : Host.Outcome State Fault Refusal :=
  feedBytes (encode (.frameKbd md rsv k0 k1 k2 k3 k4 k5 c)) s

end Sys2Proof.Machine
end

