-- ==== Sys2Proof/Machine/Dispatch.lean ====
section
/-! DEFINITION. The dispatch: one arm per constructor of `Instr`, one direct call of its meaning. -/

namespace Sys2Proof.Machine

def exec (i : Instr) (s : State) : Host.Outcome State Fault Refusal :=
  match i with
  | .h1Hdr1 => Sys2Proof.Machine.execH1Hdr1 s
  | .h1Idle b => Sys2Proof.Machine.execH1Idle b s
  | .h2Hdr2 => Sys2Proof.Machine.execH2Hdr2 s
  | .h2Err b => Sys2Proof.Machine.execH2Err b s
  | .cmMark => Sys2Proof.Machine.execCmMark s
  | .cmErr b => Sys2Proof.Machine.execCmErr b s
  | .cmdMouse => Sys2Proof.Machine.execCmdMouse s
  | .cmdKbd => Sys2Proof.Machine.execCmdKbd s
  | .cmdErr b => Sys2Proof.Machine.execCmdErr b s
  | .lenMouse => Sys2Proof.Machine.execLenMouse s
  | .lenKbd => Sys2Proof.Machine.execLenKbd s
  | .lenErr b => Sys2Proof.Machine.execLenErr b s
  | .plByte b => Sys2Proof.Machine.execPlByte b s
  | .plLast b => Sys2Proof.Machine.execPlLast b s
  | .ckByte b => Sys2Proof.Machine.execCkByte b s
  | .frameMouse bt dx dy wh rsv c => Sys2Proof.Machine.execFrameMouse bt dx dy wh rsv c s
  | .frameKbd md rsv k0 k1 k2 k3 k4 k5 c => Sys2Proof.Machine.execFrameKbd md rsv k0 k1 k2 k3 k4 k5 c s

end Sys2Proof.Machine
end

