-- ==== Sys2Proof/Machine/Input.lean ====
section
/-! DEFINITION. What each input does (spec 00_scope.md R7 and R8; 60_exceptions.md R213; 70_reset_and_hazards.md R220,
R221, R224), and where a table word is placed so that the next step runs it (log entry 7). -/

namespace Sys2Proof.Machine

/-- One byte on port `in`: decoded in the framer's context and run (R7, R78). -/
def takeByte (b : Byte) (s : State) : Host.Outcome State Fault Refusal :=
  match decodeByte s.ctx b with
  | .ok i => exec i s
  | .error _ => .refused .noTransition

/-- Bytes presented back to back: a whole frame is run as its frame-level row, anything else byte by byte (log entry 5). -/
def takeBurst (bs : List Byte) (s : State) : Host.Outcome State Fault Refusal :=
  match decodeWholeFrame bs with
  | some i => exec i s
  | none => feedBytes bs s

/-- The sink never accepts what it is offered: the block takes no further step (R213, U10). Where the latest step
offered nothing, there is nothing to accept. -/
def takeSinkStall (s : State) : Host.Outcome State Fault Refusal :=
  if s.events = [] then .next s else .fault .sinkStalled

/-- One input, on the state it has been taken from. -/
def takeInput (i : Input) (s : State) : Host.Outcome State Fault Refusal :=
  match i with
  | .byte b => takeByte b s
  | .burst bs => takeBurst bs s
  | .rst => .next (s.applyReset s.events.length)
  | .rstDelivering k => .next (s.applyReset k)
  | .sinkStall => takeSinkStall s

/-- The state in which the next step reads byte `b` as the row `decodeTableWord` gives it: the byte is the next input,
the framer is in that row's state, and `cmd` is what its guard asks for (log entry 7). -/
def placeByte (b : Byte) (s : State) : State :=
  let ctx := tableContext b
  { s with pst := ctx.pst, cmd := if ctx.pst = .len then ctx.cmd else s.cmd, input := .byte b :: s.input }

/-- The state in which the next step takes the bytes as one frame, in H1, where a frame is recognized (R116). -/
def placeFrame (bs : List Byte) (s : State) : State := { s with pst := .h1, input := .burst bs :: s.input }

/-- A table word of `nbits` bits placed as the next input. -/
def placeTableWord (s : State) (nbits w : Nat) : State :=
  if nbits = byteRowBits then placeByte (BitVec.ofNat Config.byteWidth w) s
  else placeFrame (wordBytes (nbits / Config.byteWidth) w) s

end Sys2Proof.Machine
end

