-- ==== Sys2Proof/Machine/Step.lean ====
section
/-! DEFINITION. The step (spec 00_scope.md R7): the next input is taken and handled whole before the next one. With no
input the block waits and every register keeps its value (40_framer.md R121, 60_exceptions.md R212; log entry 4). -/

namespace Sys2Proof.Machine

/-- One step of the machine. -/
def step (s : State) : Host.Outcome State Fault Refusal :=
  match s.input with
  | [] => .next s
  | i :: rest => takeInput i { s with input := rest }

/-- `s` with a table word placed so that the very next step runs it (log entry 7). -/
def State.withFetchWord (s : State) (nbits w : Nat) : State := placeTableWord s nbits w

end Sys2Proof.Machine
end

