-- ==== Sys2Proof/Safety.lean ====
section
/-! DEFINITION. What the statements are about: the invariant of the reachable states (spec 10_state.md R29), the
states that no port tells apart (R25, R30), the resynchronization bound (40_framer.md R118), and the sink's view of the
held keys (43_keyboard_diff.md R160, R161). -/

namespace Sys2Proof.Machine

/-- `(cmd, len)` is `(0x01, 5)` or `(0x02, 8)` (R29). -/
abbrev State.FrameShape (s : State) : Prop :=
  (s.cmd = Config.cmdMouse ∧ s.len = Config.lenMouse) ∨ (s.cmd = Config.cmdKbd ∧ s.len = Config.lenKbd)

/-- The invariant of R29. -/
abbrev State.Inv (s : State) : Prop :=
  (s.pst = .len → s.cmd = Config.cmdMouse ∨ s.cmd = Config.cmdKbd) ∧
  (s.pst = .pl → s.FrameShape ∧ s.idx.toNat < s.len.toNat) ∧
  (s.pst = .ck → s.FrameShape ∧ s.idx.toNat = s.len.toNat)

/-- The environment does what R213 asks of the sink: its next act is not to refuse an event for ever. -/
abbrev State.sinkServes (s : State) : Prop := s.input.head? ≠ some .sinkStall

/-- Two states that agree on everything but what R25 and R29 call left over: `cmd`, `len`, `idx` and `pay` where no rule
reads them, the payload bytes not yet written, and the model's count of free values drawn. -/
structure State.Agrees (s t : State) : Prop where
  pst : s.pst = t.pst
  snapMod : s.snapMod = t.snapMod
  snapKey : s.snapKey = t.snapKey
  input : s.input = t.input
  delivered : s.delivered = t.delivered
  events : s.events = t.events
  notes : s.notes = t.notes
  cmd : s.pst = .len → s.cmd = t.cmd
  frame : s.pst = .pl ∨ s.pst = .ck →
    s.cmd = t.cmd ∧ s.len = t.len ∧ s.idx = t.idx ∧ s.pay.toList.take s.idx.toNat = t.pay.toList.take s.idx.toNat

/-- The longest sequence of bytes other than HDR1 before H1, by the table of R118: 13 from H2, 12 from CM, 11 from CMD,
10 or 7 from LEN. Each is the bytes from there to the end of the longest frame that the state still admits. -/
def State.resyncBound (s : State) : Nat :=
  match s.pst with
  | .h1 => 0
  | .h2 => Config.lenKbd.toNat + 5
  | .cm => Config.lenKbd.toNat + 4
  | .cmd => Config.lenKbd.toNat + 3
  | .len => (if s.cmd = Config.cmdKbd then Config.lenKbd else Config.lenMouse).toNat + 2
  | .pl => s.len.toNat - s.idx.toNat + 1
  | .ck => 1

/-- `n` steps of the machine, by the host's own `run` (R10). -/
def runSteps (n : Nat) (s : State) : Host.Outcome State Fault Refusal := Host.Core.run Sys2Proof.core n s

/-- The bytes of the list arrive on port `in` before the inputs already there, and are taken, one step each. -/
def runBytes (bs : List Byte) (s : State) : Host.Outcome State Fault Refusal :=
  runSteps bs.length { s with input := bs.map .byte ++ s.input }

/-- The keys of a slot array in first-occurrence order, sentinels and repeats left out (R161). -/
def firstKeys (a : List Byte) : List Byte := (a.filter (fun k => k != Config.noKey)).eraseDups

/-- Whether the sink holds key `k` down after the events: the last event for `k` was a `KeyDown` (R160). -/
def heldAfter (k : Byte) : Bool → List Event → Bool
  | held, [] => held
  | held, .keyDown j :: es => heldAfter k (if j = k then true else held) es
  | held, .keyUp j :: es => heldAfter k (if j = k then false else held) es
  | held, .mouse _ :: es => heldAfter k held es

/-- Whether the events for key `k` alternate, a `KeyDown` only where it is up and a `KeyUp` only where it is down (R160). -/
def alternates (k : Byte) : Bool → List Event → Prop
  | _, [] => True
  | held, .keyDown j :: es => if j = k then held = false ∧ alternates k true es else alternates k held es
  | held, .keyUp j :: es => if j = k then held = true ∧ alternates k false es else alternates k held es
  | held, .mouse _ :: es => alternates k held es

/-- The law of R160: for each key its events alternate, starting with `KeyDown`, and the keys whose last event was a
`KeyDown` are `Keys(snap_key)`. -/
def State.SinkInStep (s : State) : Prop :=
  ∀ k : Byte, alternates k false s.observed ∧ (heldAfter k false s.observed = true ↔ inKeys k s.snapKey.toList)

end Sys2Proof.Machine
end

