-- ==== Sys2Proof/Certificates/Slice0/Obligations.lean ====
section
/-! DEFINITION. The statements for the provers. Each docstring names the rule of the spec that the statement formalises.

Every statement says its result as the whole next state, a record update of the state before: what the update does not
name is unchanged, and that is the statement's frame. `delivered` and `events` are the model's own record of the output
(log entry 1): a step moves the earlier step's events to `delivered` and begins its own list. The block has no memory,
no program counter and no flags (R20, R28, R40), so no frame speaks of them. -/

open Sys2Proof Sys2Proof.Machine

/-! ## Reset and the step -/

/-- R220, by the spec's decisions D6 and D8. From any state, the reset operation leaves the framer in H1 with an empty
snapshot and emits nothing; and the state after reset is such a state. What reset leaves in `cmd`, `len`, `idx` and
`pay` is not said. -/
def Obligations.ResetLeavesHuntStateAndEmptySnapshot : Prop :=
  (∀ (s : State) (rest : List Input), s.input = .rst :: rest → ∃ t, step s = .next t ∧ t.pst = .h1 ∧ t.snapMod = 0x00 ∧
    t.snapKey = #v[0x00, 0x00, 0x00, 0x00, 0x00, 0x00] ∧ t.events = [] ∧ t.delivered = s.delivered ++ s.events ∧
    t.notes = s.notes ∧ t.input = rest) ∧
  State.reset.pst = .h1 ∧ State.reset.snapMod = 0x00 ∧
  State.reset.snapKey = #v[0x00, 0x00, 0x00, 0x00, 0x00, 0x00] ∧ State.reset.observed = []

/-- R221, U9, by the spec's decision D8. A reset during delivery cuts the latest step's events to a prefix, and to
every prefix for some moment. -/
def Obligations.ResetDuringDeliveryLeavesAnyPrefix : Prop :=
  ∀ (s : State) (rest : List Input),
    (∀ k, s.input = .rstDelivering k :: rest → ∃ t p, step s = .next t ∧ p <+: s.events ∧
      t.delivered = s.delivered ++ p ∧ t.events = [] ∧ t.pst = .h1 ∧ t.snapMod = 0x00 ∧
      t.snapKey = #v[0x00, 0x00, 0x00, 0x00, 0x00, 0x00] ∧ t.input = rest) ∧
    (∀ p, p <+: s.events → ∃ k t, step { s with input := .rstDelivering k :: rest } = .next t ∧
      t.observed = s.delivered ++ p)

/-- R213, U10 (log entry 6). A sink that never accepts an offered event stops the run; one that is offered nothing has
nothing to refuse. -/
def Obligations.SinkThatNeverAcceptsStopsTheRun : Prop :=
  ∀ (s : State) (rest : List Input), s.input = .sinkStall :: rest →
    (s.events ≠ [] → step s = .fault .sinkStalled) ∧ (s.events = [] → step s = .next { s with input := rest })

/-- R60, R78. A step on an input byte runs the instruction the byte decodes to in the framer's context, on the state
the byte has been taken from; a burst that is a whole frame runs as its frame row (log entry 5). -/
def Obligations.StepRunsTheDecodedInstruction : Prop :=
  (∀ (s : State) (b : Byte) (rest : List Input) (i : Instr), s.input = .byte b :: rest →
    decodeByte s.ctx b = .ok i → step s = exec i { s with input := rest }) ∧
  (∀ (s : State) (bs : List Byte) (rest : List Input) (i : Instr), s.input = .burst bs :: rest →
    decodeFrame bs = .ok (i, []) → step s = exec i { s with input := rest })

/-- R121 (log entry 4). With no input every register keeps its value, however often the block is looked at; and a step
that moves the framer took a byte, a burst of bytes or a reset. -/
def Obligations.OnlyBytesOrResetMoveTheFramer : Prop :=
  (∀ (s : State) (n : Nat), s.input = [] → runSteps n s = .next s) ∧
  (∀ s t : State, step s = .next t → t.pst ≠ s.pst → ∃ i rest, s.input = i :: rest ∧
    ((∃ b, i = .byte b) ∨ (∃ bs, i = .burst bs) ∨ i = .rst ∨ ∃ k, i = .rstDelivering k))

/-- R120. Each byte makes exactly one transition, that of the one row it decodes to; it is consumed by it and never
fed again: the inputs left are those after it. -/
def Obligations.EveryByteIsConsumedExactlyOnce : Prop :=
  ∀ (s t : State) (b : Byte) (rest : List Input), s.input = .byte b :: rest → step s = .next t →
    t.input = rest ∧ ∃ i, decodeByte s.ctx b = .ok i ∧ exec i { s with input := rest } = .next t

/-! ## Decoding -/

/-- R61, R101 to R115. Words written out from the spec's encodings decode to the instructions they stand for. -/
def Obligations.WordsOfTheSpecDecode : Prop :=
  decodeByte ⟨.h1, 0, 0, 0⟩ 0x57 = .ok .h1Hdr1 ∧ decodeByte ⟨.h1, 0, 0, 0⟩ 0xAB = .ok (.h1Idle 0xAB) ∧
  decodeByte ⟨.h2, 0, 0, 0⟩ 0xAB = .ok .h2Hdr2 ∧ decodeByte ⟨.h2, 0, 0, 0⟩ 0x57 = .ok (.h2Err 0x57) ∧
  decodeByte ⟨.cm, 0, 0, 0⟩ 0x00 = .ok .cmMark ∧ decodeByte ⟨.cmd, 0, 0, 0⟩ 0x02 = .ok .cmdKbd ∧
  decodeByte ⟨.len, 0x01, 0, 0⟩ 0x05 = .ok .lenMouse ∧ decodeByte ⟨.len, 0x01, 0, 0⟩ 0x08 = .ok (.lenErr 0x08) ∧
  decodeByte ⟨.pl, 0x01, 5, 4⟩ 0x00 = .ok (.plLast 0x00) ∧ decodeByte ⟨.ck, 0x01, 5, 5⟩ 0x17 = .ok (.ckByte 0x17) ∧
  decodeFrame [0x57, 0xAB, 0x00, 0x01, 0x05, 0x0B, 0xFB, 0x0A, 0xFF, 0x00, 0x17] =
    .ok (.frameMouse 0x0B 0xFB 0x0A 0xFF 0x00 0x17, []) ∧
  decodeFrame [0x57, 0xAB, 0x00, 0x02, 0x08, 0x00, 0x00, 0x04, 0x05, 0x00, 0x00, 0x00, 0x00, 0x15] =
    .ok (.frameKbd 0x00 0x00 0x04 0x05 0x00 0x00 0x00 0x00 0x15, [])

/-- R60, R78, which the spec derives. For every context in which PL has a byte left to take, and every byte, exactly
one row wins: it applies, every other row that applies has a higher priority number, and it is the row the decoder
gives. -/
def Obligations.EveryByteMatchesExactlyOneRow : Prop :=
  ∀ (ctx : FramerCtx) (b : Byte), (ctx.pst = .pl → ctx.idx.toNat < ctx.len.toNat) →
    ∃ r ∈ opcodeTable, r.applies ctx b = true ∧ decodeByte ctx b = .ok (r.build b) ∧
      ∀ r' ∈ opcodeTable, r'.applies ctx b = true → r'.mnemonic ≠ r.mnemonic → r.priority < r'.priority

/-- R101 to R115, "Encoding". A byte row that applies in a context is what its own byte decodes to there; and the
decoder gives only rows that apply, whose byte is the byte read. -/
def Obligations.ByteRowsDecodeTheirEncoding : Prop :=
  (∀ (ctx : FramerCtx) (i : Instr), i.isByteRow = true → i.appliesIn ctx = true →
    ∃ b, encode i = [b] ∧ decodeByte ctx b = .ok i) ∧
  (∀ (ctx : FramerCtx) (b : Byte) (i : Instr), decodeByte ctx b = .ok i →
    i.isByteRow = true ∧ i.appliesIn ctx = true ∧ encode i = [b])

/-- R61 to R66. Every frame, with any field bytes and any checksum byte, decodes to itself and leaves the bytes after
it; and the decoder reads a frame only from that frame's bytes. -/
def Obligations.FramesDecodeTheirEncoding : Prop :=
  (∀ (i : Instr) (rest : List Byte), i.isByteRow = false → decodeFrame (encode i ++ rest) = .ok (i, rest)) ∧
  (∀ (bs rest : List Byte) (i : Instr), decodeFrame bs = .ok (i, rest) →
    i.isByteRow = false ∧ bs = encode i ++ rest)

/-- R62 to R64, R76. A list of 14 bytes or more that is no frame is rejected at the first position that has a value
the format does not allow. -/
def Obligations.BytesThatAreNoFrameAreRejectedByPosition : Prop :=
  ∀ (b0 b1 b2 b3 b4 : Byte) (body : List Byte), 9 ≤ body.length →
    (b0 ≠ 0x57 → decodeFrame (b0 :: b1 :: b2 :: b3 :: b4 :: body) = .error .badHeader1) ∧
    (b0 = 0x57 → b1 ≠ 0xAB → decodeFrame (b0 :: b1 :: b2 :: b3 :: b4 :: body) = .error .badHeader2) ∧
    (b0 = 0x57 → b1 = 0xAB → b2 ≠ 0x00 → decodeFrame (b0 :: b1 :: b2 :: b3 :: b4 :: body) = .error .badMarker) ∧
    (b0 = 0x57 → b1 = 0xAB → b2 = 0x00 → b3 ≠ 0x01 → b3 ≠ 0x02 →
      decodeFrame (b0 :: b1 :: b2 :: b3 :: b4 :: body) = .error .badCommand) ∧
    (b0 = 0x57 → b1 = 0xAB → b2 = 0x00 → (b3 = 0x01 ∧ b4 ≠ 0x05) ∨ (b3 = 0x02 ∧ b4 ≠ 0x08) →
      decodeFrame (b0 :: b1 :: b2 :: b3 :: b4 :: body) = .error .badLength) ∧
    (b0 = 0x57 → b1 = 0xAB → b2 = 0x00 → (b3 = 0x01 ∧ b4 = 0x05) ∨ (b3 = 0x02 ∧ b4 = 0x08) →
      ∃ i rest, decodeFrame (b0 :: b1 :: b2 :: b3 :: b4 :: body) = .ok (i, rest))

/-- R78 (log entry 7). An instruction read from a table word is the one the very next step runs where the word is
placed, and placing it changes no register but `pst` and `cmd`. -/
def Obligations.PlacedTableWordRunsInTheNextStep : Prop :=
  ∀ (s : State) (nbits w : Nat) (i : Instr), decodeTableWord nbits w = some i →
    step (s.withFetchWord nbits w) = exec i { s.withFetchWord nbits w with input := s.input } ∧
    { s.withFetchWord nbits w with pst := s.pst, cmd := s.cmd, input := s.input } = s

/-! ## The framer's rows -/

/-- R101, R103, R105. The header bytes and the marker move the framer on and change nothing else. -/
def Obligations.HeaderAndMarkerRowsAdvanceTheFramer : Prop :=
  ∀ s : State,
    (s.pst = .h1 → decodeByte s.ctx 0x57 = .ok .h1Hdr1) ∧
    exec .h1Hdr1 s = .next { s with pst := .h2, delivered := s.delivered ++ s.events, events := [] } ∧
    (s.pst = .h2 → decodeByte s.ctx 0xAB = .ok .h2Hdr2) ∧
    exec .h2Hdr2 s = .next { s with pst := .cm, delivered := s.delivered ++ s.events, events := [] } ∧
    (s.pst = .cm → decodeByte s.ctx 0x00 = .ok .cmMark) ∧
    exec .cmMark s = .next { s with pst := .cmd, delivered := s.delivered ++ s.events, events := [] }

/-- R102. In H1 any other byte leaves the framer hunting, with no note and nothing else changed. -/
def Obligations.OtherBytesLeaveTheFramerHunting : Prop :=
  ∀ (s : State) (b : Byte),
    (s.pst = .h1 → b ≠ 0x57 → decodeByte s.ctx b = .ok (.h1Idle b)) ∧
    exec (.h1Idle b) s = .next { s with pst := .h1, delivered := s.delivered ++ s.events, events := [] }

/-- R104, R106, R109, R112. On an unexpected byte in H2, CM, CMD or LEN the framer goes to H1 with the state's note;
no other register changes and nothing is emitted. -/
def Obligations.FramingErrorsReturnToHunting : Prop :=
  ∀ (s : State) (b : Byte),
    (s.pst = .h2 → b ≠ 0xAB → decodeByte s.ctx b = .ok (.h2Err b)) ∧
    exec (.h2Err b) s = .next { s with
      pst := .h1, delivered := s.delivered ++ s.events, events := [], notes := s.notes ++ [.framingHdr2] } ∧
    (s.pst = .cm → b ≠ 0x00 → decodeByte s.ctx b = .ok (.cmErr b)) ∧
    exec (.cmErr b) s = .next { s with
      pst := .h1, delivered := s.delivered ++ s.events, events := [], notes := s.notes ++ [.framingMarker] } ∧
    (s.pst = .cmd → b ≠ 0x01 → b ≠ 0x02 → decodeByte s.ctx b = .ok (.cmdErr b)) ∧
    exec (.cmdErr b) s = .next { s with
      pst := .h1, delivered := s.delivered ++ s.events, events := [], notes := s.notes ++ [.framingCommand] } ∧
    (s.pst = .len → ¬(s.cmd = 0x01 ∧ b = 0x05) → ¬(s.cmd = 0x02 ∧ b = 0x08) →
      decodeByte s.ctx b = .ok (.lenErr b)) ∧
    exec (.lenErr b) s = .next { s with
      pst := .h1, delivered := s.delivered ++ s.events, events := [], notes := s.notes ++ [.framingLength] }

/-- R107, R108. A known command code is recorded and the framer goes to LEN. -/
def Obligations.CommandRowsRecordTheCode : Prop :=
  ∀ s : State,
    (s.pst = .cmd → decodeByte s.ctx 0x01 = .ok .cmdMouse) ∧
    exec .cmdMouse s = .next { s with
      cmd := 0x01, pst := .len, delivered := s.delivered ++ s.events, events := [] } ∧
    (s.pst = .cmd → decodeByte s.ctx 0x02 = .ok .cmdKbd) ∧
    exec .cmdKbd s = .next { s with
      cmd := 0x02, pst := .len, delivered := s.delivered ++ s.events, events := [] }

/-- R110, R111. The mandated length is recorded, the index is reset and the framer goes to PL. -/
def Obligations.LengthRowsOpenThePayload : Prop :=
  ∀ s : State,
    (s.pst = .len → s.cmd = 0x01 → decodeByte s.ctx 0x05 = .ok .lenMouse) ∧
    exec .lenMouse s = .next { s with
      len := 5, idx := 0, pst := .pl, delivered := s.delivered ++ s.events, events := [] } ∧
    (s.pst = .len → s.cmd = 0x02 → decodeByte s.ctx 0x08 = .ok .lenKbd) ∧
    exec .lenKbd s = .next { s with
      len := 8, idx := 0, pst := .pl, delivered := s.delivered ++ s.events, events := [] }

/-- R113, R114. A payload byte, whatever its value, is stored at `idx` and `idx` goes up by one; the last one moves
the framer to CK. -/
def Obligations.PayloadRowsStoreTheByte : Prop :=
  ∀ (s : State) (b : Byte),
    (s.pst = .pl → s.idx.toNat + 1 < s.len.toNat → decodeByte s.ctx b = .ok (.plByte b)) ∧
    (s.pst = .pl → s.idx.toNat + 1 = s.len.toNat → decodeByte s.ctx b = .ok (.plLast b)) ∧
    ∀ h : s.idx.toNat < 8,
      (∃ t, exec (.plByte b) s = .next t ∧ t.idx.toNat = s.idx.toNat + 1 ∧
        t = { s with pay := s.pay.set s.idx.toNat b h, idx := t.idx, pst := .pl,
                     delivered := s.delivered ++ s.events, events := [] }) ∧
      (∃ t, exec (.plLast b) s = .next t ∧ t.idx.toNat = s.idx.toNat + 1 ∧
        t = { s with pay := s.pay.set s.idx.toNat b h, idx := t.idx, pst := .ck,
                     delivered := s.delivered ++ s.events, events := [] })

/-- R49 (the fault is the model's, log entry 8). A payload write past the buffer, which no reachable state makes,
faults. -/
def Obligations.PayloadWritePastTheBufferFaults : Prop :=
  ∀ (s : State) (b : Byte), 8 ≤ s.idx.toNat →
    exec (.plByte b) s = .fault .payloadOutOfRange ∧ exec (.plLast b) s = .fault .payloadOutOfRange

/-! ## The CK byte, the checksum and the dispatch -/

/-- R115. In every reachable CK state any byte is taken as the checksum and the step completes: the framer goes to H1,
not H2, even on 0x57, and `cmd`, `len`, `idx` and `pay` keep their values. -/
def Obligations.ChecksumByteReturnsTheFramerToHunting : Prop :=
  ∀ (s : State) (b : Byte), s.Inv → s.pst = .ck →
    decodeByte s.ctx b = .ok (.ckByte b) ∧
    ∃ t, exec (.ckByte b) s = .next t ∧ t.pst = .h1 ∧ t.cmd = s.cmd ∧ t.len = s.len ∧ t.idx = s.idx ∧ t.pay = s.pay ∧
      t.input = s.input ∧ t.delivered = s.delivered ++ s.events

/-- R141, R203. Where the checksum fails the packet is discarded: one note, no event, no snapshot write, and no
register changed but `pst`. -/
def Obligations.ChecksumMismatchDiscardsThePacket : Prop :=
  ∀ (s : State) (b : Byte), s.len.toNat ≤ 8 →
    (0x57 + 0xAB + 0x00 + s.cmd.toNat + s.len.toNat + ((s.pay.toList.take s.len.toNat).map BitVec.toNat).sum) % 256
      ≠ b.toNat →
    exec (.ckByte b) s = .next { s with
      pst := .h1, delivered := s.delivered ++ s.events, events := [], notes := s.notes ++ [.checksumMismatch] }

/-- R171 to R174. A valid mouse packet emits exactly one report, with its fields as the payload gives them, and writes
no register but `pst`. -/
def Obligations.ValidMousePacketEmitsOneReport : Prop :=
  ∀ (s : State) (b : Byte), s.cmd = 0x01 → s.len = 5 →
    (0x08 + s.pay[0].toNat + s.pay[1].toNat + s.pay[2].toNat + s.pay[3].toNat + s.pay[4].toNat) % 256 = b.toNat →
    exec (.ckByte b) s = .next { s with
      pst := .h1, delivered := s.delivered ++ s.events,
      events := [.mouse ⟨s.pay[0].extractLsb' 0 3, s.pay[0].extractLsb' 3 2, s.pay[1], s.pay[2], s.pay[3], 0x00⟩] }

/-- R150, R155; the order of events is R154's and the spec's decision D5. A valid keyboard packet emits the releases
and then the presses, against the old snapshot, and replaces the snapshot with the new report, raw. -/
def Obligations.ValidKeyboardPacketDiffsAndReplacesTheSnapshot : Prop :=
  ∀ (s : State) (b : Byte), s.cmd = 0x02 → s.len = 8 →
    (0x0C + s.pay[0].toNat + s.pay[1].toNat + s.pay[2].toNat + s.pay[3].toNat + s.pay[4].toNat + s.pay[5].toNat
      + s.pay[6].toNat + s.pay[7].toNat) % 256 = b.toNat →
    exec (.ckByte b) s = .next { s with
      pst := .h1, delivered := s.delivered ++ s.events, snapMod := s.pay[0],
      snapKey := #v[s.pay[2], s.pay[3], s.pay[4], s.pay[5], s.pay[6], s.pay[7]],
      events :=
        releases s.snapKey.toList [s.pay[2], s.pay[3], s.pay[4], s.pay[5], s.pay[6], s.pay[7]] ++
        presses s.snapKey.toList [s.pay[2], s.pay[3], s.pay[4], s.pay[5], s.pay[6], s.pay[7]] }

/-- R143. A validated packet whose command is neither code raises InvariantViolation, which ends the run; no reachable
state raises it, on any byte, as the spec derives. -/
def Obligations.UnknownCommandAtDispatchFaults : Prop :=
  (∀ (s : State) (b : Byte), s.len.toNat ≤ 8 → s.cmd ≠ 0x01 → s.cmd ≠ 0x02 →
    (0x57 + 0xAB + 0x00 + s.cmd.toNat + s.len.toNat + ((s.pay.toList.take s.len.toNat).map BitVec.toNat).sum) % 256
      = b.toNat →
    exec (.ckByte b) s = .fault .invariantViolation) ∧
  (∀ (s : State) (b : Byte) (rest : List Input), s.Inv → s.input = .byte b :: rest →
    step s ≠ .fault .invariantViolation)

/-- R130. The verdict is equality of the checksum byte with the low byte of the sum of the header constants, the
command code, the length byte and all payload bytes. -/
def Obligations.ValidateComparesTheLowByteOfTheSum : Prop :=
  ∀ p : Packet, validate p = true ↔
    (0x57 + 0xAB + 0x00 + p.command.toNat + p.length.toNat + (p.payload.map BitVec.toNat).sum) % 256 = p.checksum.toNat

/-- R131, which the spec derives. The constant part of the sum: 0x02 for the header, 0x08 for a mouse packet, 0x0C for
a keyboard packet. -/
def Obligations.ChecksumConstantsFollowTheFrameType : Prop :=
  (0x57#8 + 0xAB#8 + 0x00#8 = 0x02#8) ∧
  (∀ (payload : List Byte) (c : Byte),
    (validate ⟨0x01, 5, payload, c⟩ = true ↔ (0x08 + (payload.map BitVec.toNat).sum) % 256 = c.toNat) ∧
    (validate ⟨0x02, 8, payload, c⟩ = true ↔ (0x0C + (payload.map BitVec.toNat).sum) % 256 = c.toNat)) ∧
  validate ⟨0x01, 5, [0, 0, 0, 0, 0], 0x08⟩ = true ∧ validate ⟨0x02, 8, [0, 0, 0, 0, 0, 0, 0, 0], 0x0C⟩ = true

/-- R133, which the spec derives. Flipping one bit of a payload byte, or of the checksum byte, of a packet that
validates makes it fail. -/
def Obligations.SingleBitFlipsAreDetected : Prop :=
  ∀ (p : Packet) (k : Nat), k < 8 → validate p = true →
    (∀ (i : Nat) (h : i < p.payload.length),
      validate { p with payload := p.payload.set i (p.payload[i] ^^^ (1#8 <<< k)) } = false) ∧
    validate { p with checksum := p.checksum ^^^ (1#8 <<< k) } = false

/-- R134, which the spec derives. A permuted payload, a change that adds to one byte what it takes from another, and a
change matched in the checksum byte still validate. -/
def Obligations.CompensatedChangesAreNotDetected : Prop :=
  ∀ p : Packet, validate p = true →
    (∀ q, q.Perm p.payload → validate { p with payload := q } = true) ∧
    (∀ (i j : Nat) (hi : i < p.payload.length) (hj : j < p.payload.length) (d : Byte), i ≠ j →
      validate { p with payload := (p.payload.set i (p.payload[i] + d)).set j (p.payload[j] - d) } = true) ∧
    (∀ (q : List Byte) (d : Byte),
      (q.map BitVec.toNat).sum % 256 = ((p.payload.map BitVec.toNat).sum + d.toNat) % 256 →
      validate { p with payload := q, checksum := p.checksum + d } = true)

/-! ## Whole frames -/

/-- R116, which the spec derives, R131, R170 to R174. A mouse frame that arrives in H1 is recognized: with the right
checksum it emits its one report, with any other it is discarded with a note, and in both cases the framer ends in H1.
-/
def Obligations.MouseFrameIsRecognizedFromHunting : Prop :=
  ∀ (s : State) (bt dx dy wh rsv c : Byte), s.pst = .h1 →
    exec (.frameMouse bt dx dy wh rsv c) s = .next { s with
      cmd := 0x01, len := 5, idx := 5,
      pay := #v[bt, dx, dy, wh, rsv, s.pay[5], s.pay[6], s.pay[7]],
      delivered := s.delivered ++ s.events,
      events := if c = 0x08 + bt + dx + dy + wh + rsv
        then [.mouse ⟨bt.extractLsb' 0 3, bt.extractLsb' 3 2, dx, dy, wh, 0x00⟩] else [],
      notes := if c = 0x08 + bt + dx + dy + wh + rsv then s.notes else s.notes ++ [.checksumMismatch] }

/-- R116, which the spec derives, R131, R150 to R155. A keyboard frame that arrives in H1 is recognized: with the
right checksum it emits the diff and replaces the snapshot, with any other it is discarded with a note, and the framer
ends in H1. -/
def Obligations.KeyboardFrameIsRecognizedFromHunting : Prop :=
  ∀ (s : State) (md rsv k0 k1 k2 k3 k4 k5 c : Byte), s.pst = .h1 →
    exec (.frameKbd md rsv k0 k1 k2 k3 k4 k5 c) s = .next (
      let received : State := { s with
        cmd := 0x02, len := 8, idx := 8, pay := #v[md, rsv, k0, k1, k2, k3, k4, k5],
        delivered := s.delivered ++ s.events, events := [] }
      if c = 0x0C + md + rsv + k0 + k1 + k2 + k3 + k4 + k5 then
        { received with
          snapMod := md, snapKey := #v[k0, k1, k2, k3, k4, k5],
          events := releases s.snapKey.toList [k0, k1, k2, k3, k4, k5] ++ presses s.snapKey.toList [k0, k1, k2, k3, k4, k5] }
      else { received with notes := s.notes ++ [.checksumMismatch] })

/-- R119, which the spec derives. A frame whose first byte arrives in H2, CM, CMD or LEN is lost: the step completes,
no event is emitted, no packet completes, and the snapshot is unchanged. -/
def Obligations.FrameArrivingMidHeaderIsLost : Prop :=
  ∀ (s : State) (i : Instr), i.isByteRow = false → s.pst = .h2 ∨ s.pst = .cm ∨ s.pst = .cmd ∨ s.pst = .len →
    ∃ t, exec i s = .next t ∧ t.observed = s.observed ∧ t.snapMod = s.snapMod ∧ t.snapKey = s.snapKey ∧
      t.notes.count .checksumMismatch = s.notes.count .checksumMismatch

/-- R200, R119. In every reachable state a frame of either kind is taken whole, and the state after it is reachable. -/
def Obligations.FramesCompleteInEveryReachableState : Prop :=
  ∀ (s : State) (i : Instr), i.isByteRow = false → s.Inv → ∃ t, exec i s = .next t ∧ t.Inv ∧ t.input = s.input

/-- R61, R120 (log entry 5). A burst is its bytes in arrival order: one step on it is the run of byte steps. -/
def Obligations.BurstIsItsBytesInSequence : Prop :=
  ∀ (s : State) (bs : List Byte) (rest : List Input), s.input = .burst bs :: rest →
    step s = runBytes bs { s with input := rest }

/-- R100, R140. The opcode table, read as R78 says and run row by row, is the state machine of R101 to R115 selected
by `pst` and then by the byte: the two descriptions of one step agree in every state, on every byte. -/
def Obligations.OpcodeTableAgreesWithTheStateMachine : Prop :=
  ∀ (s : State) (b : Byte) (rest : List Input), s.input = .byte b :: rest → step s = feedByte b { s with input := rest }

/-! ## The keyboard diff -/

/-- R152, its order and duplicates by the spec's decision D5. The release phase is the spec's loop over the six slots
of the old report: a slot's key is released if it is a key, is not in the new report and is in no earlier slot. So the
keys released are those of `Keys(old) \ Keys(new)`, each once. -/
def Obligations.ReleasesAreTheKeysThatLeft : Prop :=
  ∀ old new : Vector Byte 6,
    releases old.toList new.toList = (List.finRange 6).filterMap (fun i : Fin 6 =>
      if old[i] ≠ 0x00 ∧ old[i] ∉ new.toList ∧ old[i] ∉ old.toList.take i.val then some (.keyUp old[i]) else none) ∧
    (∀ k, .keyUp k ∈ releases old.toList new.toList ↔ inKeys k old.toList ∧ ¬ inKeys k new.toList) ∧
    (releases old.toList new.toList).Nodup

/-- R153, its order and duplicates by the spec's decision D5. The press phase is the spec's loop over the six slots of
the new report. So the keys pressed are those of `Keys(new) \ Keys(old)`, each once. -/
def Obligations.PressesAreTheKeysThatCame : Prop :=
  ∀ old new : Vector Byte 6,
    presses old.toList new.toList = (List.finRange 6).filterMap (fun i : Fin 6 =>
      if new[i] ≠ 0x00 ∧ new[i] ∉ old.toList ∧ new[i] ∉ new.toList.take i.val then some (.keyDown new[i]) else none) ∧
    (∀ k, .keyDown k ∈ presses old.toList new.toList ↔ inKeys k new.toList ∧ ¬ inKeys k old.toList) ∧
    (presses old.toList new.toList).Nodup

/-- R154, R159, which the spec derives in part. The event list of a step whose packet is a keyboard packet is the
releases and then the presses, between the old snapshot and the new one, and no step emits a `KeyDown` before a
`KeyUp`; no key is both released and pressed in one diff; and a key that is in both reports gets no event. -/
def Obligations.ReleasesComeBeforePresses : Prop :=
  (∀ (s t : State) (b : Byte) (rest : List Input), s.input = .byte b :: rest → step s = .next t →
    t.events.Pairwise (fun e f => ∀ j k, ¬(e = .keyDown j ∧ f = .keyUp k)) ∧
    (s.cmd = 0x02 → t.events ≠ [] → t.events =
      releases s.snapKey.toList t.snapKey.toList ++ presses s.snapKey.toList t.snapKey.toList)) ∧
  (∀ (old new : List Byte) (k : Byte),
    ¬(.keyUp k ∈ releases old new ∧ .keyDown k ∈ presses old new) ∧
    (inKeys k old → inKeys k new →
      .keyUp k ∉ releases old new ++ presses old new ∧ .keyDown k ∉ releases old new ++ presses old new))

/-- R157, which the spec derives. The numbers of releases and presses are the sizes of the two set differences, each
at most 6; a step emits at most 12 events; and six distinct keys followed by six other distinct keys give all 12. -/
def Obligations.KeyboardEventCountIsBounded : Prop :=
  (∀ old new : Vector Byte 6,
    (releases old.toList new.toList).length = ((old.toList.toFinset \ new.toList.toFinset).erase 0x00).card ∧
    (presses old.toList new.toList).length = ((new.toList.toFinset \ old.toList.toFinset).erase 0x00).card ∧
    (releases old.toList new.toList).length ≤ 6 ∧ (presses old.toList new.toList).length ≤ 6) ∧
  (∀ old new : Vector Byte 6, old.toList.Nodup → new.toList.Nodup → 0x00 ∉ old.toList ++ new.toList →
    (∀ k ∈ old.toList, k ∉ new.toList) →
    (releases old.toList new.toList).length + (presses old.toList new.toList).length = 12) ∧
  (∀ (s t : State) (b : Byte) (rest : List Input), s.input = .byte b :: rest → step s = .next t → t.events.length ≤ 12)

/-- R158, which the spec derives. Right after a valid keyboard frame, another valid keyboard frame with the same key
set emits no event. -/
def Obligations.RepeatedKeySetEmitsNothing : Prop :=
  ∀ (s : State) (md rsv k0 k1 k2 k3 k4 k5 md' rsv' l0 l1 l2 l3 l4 l5 : Byte), s.pst = .h1 →
    (∀ k, inKeys k [l0, l1, l2, l3, l4, l5] ↔ inKeys k [k0, k1, k2, k3, k4, k5]) →
    ∃ t u, exec (.frameKbd md rsv k0 k1 k2 k3 k4 k5 (0x0C + md + rsv + k0 + k1 + k2 + k3 + k4 + k5)) s = .next t ∧
      exec (.frameKbd md' rsv' l0 l1 l2 l3 l4 l5 (0x0C + md' + rsv' + l0 + l1 + l2 + l3 + l4 + l5)) t = .next u ∧
      u.events = [] ∧ u.observed = t.observed ∧ u.snapMod = md' ∧ u.snapKey = #v[l0, l1, l2, l3, l4, l5]

/-- R156. Two valid keyboard frames that differ only in the modifier and the reserved byte emit the same events; where
their keycodes are the snapshot's own, they emit none. `snap_mod` takes the new modifier. -/
def Obligations.ModifierAndReservedByteEmitNothing : Prop :=
  ∀ (s : State) (md rsv md' rsv' k0 k1 k2 k3 k4 k5 : Byte), s.pst = .h1 →
    ∃ t u, exec (.frameKbd md rsv k0 k1 k2 k3 k4 k5 (0x0C + md + rsv + k0 + k1 + k2 + k3 + k4 + k5)) s = .next t ∧
      exec (.frameKbd md' rsv' k0 k1 k2 k3 k4 k5 (0x0C + md' + rsv' + k0 + k1 + k2 + k3 + k4 + k5)) s = .next u ∧
      t.events = u.events ∧ t.snapMod = md ∧ u.snapMod = md' ∧ t.snapKey = u.snapKey ∧
      (s.snapKey = #v[k0, k1, k2, k3, k4, k5] → t.events = [])

/-- R161, which the spec derives. Two snapshots with the same keys in the same first-occurrence order give the same
events for every report. -/
def Obligations.OnlyFirstOccurrencesOfTheSnapshotMatter : Prop :=
  ∀ old old' new : List Byte, firstKeys old = firstKeys old' →
    releases old new ++ presses old new = releases old' new ++ presses old' new

/-- R160, which the spec derives. The sink's view follows the reports: at reset, and after every step other than a
reset, each key's events alternate and the keys held at the sink are those of the snapshot. -/
def Obligations.SinkViewFollowsTheReports : Prop :=
  State.reset.SinkInStep ∧
  ∀ s t : State, s.SinkInStep → step s = .next t →
    s.input.head? ≠ some .rst → (∀ k, s.input.head? ≠ some (.rstDelivering k)) → t.SinkInStep

/-! ## The mouse report -/

/-- R171 to R173; and R175, by the spec's decision D13, for the last clause. The button fields are `bt & 0x07` and
`(bt >> 3) & 0x03`, the motion and the wheel pass unchanged, the horizontal wheel is 0, and neither the reserved byte
nor `bt[7:5]` reaches the report. -/
def Obligations.MouseReportFieldsFollowThePayload : Prop :=
  ∀ bt dx dy wh rsv : Byte,
    (mouseReport bt dx dy wh rsv).btn.toNat = bt.toNat % 8 ∧
    (mouseReport bt dx dy wh rsv).xbtn.toNat = bt.toNat / 8 % 4 ∧
    (mouseReport bt dx dy wh rsv).dx = dx ∧ (mouseReport bt dx dy wh rsv).dy = dy ∧
    (mouseReport bt dx dy wh rsv).vwheel = wh ∧ (mouseReport bt dx dy wh rsv).hwheel = 0x00 ∧
    ∀ bt' rsv' : Byte, bt.toNat % 32 = bt'.toNat % 32 → mouseReport bt' dx dy wh rsv' = mouseReport bt dx dy wh rsv

/-! ## The whole machine -/

/-- R29, which the spec derives. The invariant holds right after reset. -/
def Obligations.ReachabilityInvariantHoldsAtReset : Prop := State.reset.Inv

/-- R29, which the spec derives. Every step from a state that meets the invariant gives one that meets it, whatever
the input. -/
def Obligations.EveryStepKeepsTheReachabilityInvariant : Prop :=
  ∀ s t : State, s.Inv → step s = .next t → t.Inv

/-- R200. From a reachable state no byte and no sequence of bytes makes the block fault, stop or refuse: every byte is
taken, and the state after them is reachable. -/
def Obligations.NoByteSequenceStopsTheBlock : Prop :=
  ∀ (s : State) (bs : List Byte), s.Inv → ∃ t, runBytes bs s = .next t ∧ t.Inv ∧ t.input = s.input

/-- R200, R213. A step from a reachable state faults or refuses only where the sink refuses an event for ever. -/
def Obligations.OnlyARefusingSinkStopsTheBlock : Prop :=
  ∀ s : State, s.Inv → s.sinkServes → ∃ t, step s = .next t

/-- R25, R29, R30, which the spec derives (log entries 2 and 3). The registers' left-over values are unobservable:
from two reachable states that differ only in them, a step emits the same events, notes the same reasons and stops
alike, and the next states differ only in them. -/
def Obligations.StaleRegistersAreUnobservable : Prop :=
  ∀ s t : State, s.Inv → t.Inv → s.Agrees t →
    (∀ s', step s = .next s' → ∃ t', step t = .next t' ∧ s'.Agrees t') ∧
    (∀ r, step s = .fault r → step t = .fault r) ∧ (∀ r, step s = .refused r → step t = .refused r)

/-- R118, which the spec derives. From any reachable state, at least as many bytes as the table's bound, none of them
0x57, leave the framer in H1; the bound is at most 13; and outside H1 it is tight: one byte fewer can leave the framer
elsewhere. -/
def Obligations.ResynchronizationIsBounded : Prop :=
  ∀ s : State, s.Inv →
    s.resyncBound ≤ 13 ∧
    (∀ bs : List Byte, 0x57 ∉ bs → s.resyncBound ≤ bs.length → ∃ t, runBytes bs s = .next t ∧ t.pst = .h1) ∧
    (s.pst ≠ .h1 → ∃ (bs : List Byte) (t : State), 0x57 ∉ bs ∧ bs.length + 1 = s.resyncBound ∧
      runBytes bs s = .next t ∧ t.pst ≠ .h1)

/-- R46, R117, R144. A byte step that emits an event takes a CK byte, ends in H1, and emits on one channel only: key
events, or exactly one mouse report. -/
def Obligations.EventsComeOnlyFromOnePacketAtTheChecksumByte : Prop :=
  ∀ (s t : State) (b : Byte) (rest : List Input), s.input = .byte b :: rest → step s = .next t → t.events ≠ [] →
    s.pst = .ck ∧ t.pst = .h1 ∧
    ((∀ e ∈ t.events, ∃ k, e = .keyUp k ∨ e = .keyDown k) ∨ ∃ r, t.events = [.mouse r])

/-- R117, which the spec derives. Packets are at least 11 bytes apart: from H1 no 10 bytes complete a packet, so none
emits an event, discards a packet or writes the snapshot. -/
def Obligations.PacketsCompleteAtMostOnceInElevenBytes : Prop :=
  ∀ (s : State) (bs : List Byte), s.pst = .h1 → bs.length ≤ 10 →
    ∃ t, runBytes bs s = .next t ∧ t.observed = s.observed ∧ t.snapMod = s.snapMod ∧ t.snapKey = s.snapKey ∧
      t.notes.count .checksumMismatch = s.notes.count .checksumMismatch

/-- R27, R50, R226. A byte step writes the snapshot only where a keyboard packet completes and its checksum is right. -/
def Obligations.SnapshotIsWrittenOnlyByAValidKeyboardPacket : Prop :=
  ∀ (s t : State) (b : Byte) (rest : List Input), s.input = .byte b :: rest → step s = .next t →
    (t.snapMod ≠ s.snapMod ∨ t.snapKey ≠ s.snapKey) →
    s.pst = .ck ∧ s.cmd = 0x02 ∧
    (0x57 + 0xAB + 0x00 + s.cmd.toNat + s.len.toNat + ((s.pay.toList.take s.len.toNat).map BitVec.toNat).sum) % 256
      = b.toNat

/-- R202, R203 and R205, which the spec derives. A byte step notes at most one discard reason, the one of its framer
state; it then ends in H1, emits nothing and changes neither the snapshot nor `cmd`, `len`, `idx` or `pay`. -/
def Obligations.AtMostOneDiscardPerByte : Prop :=
  ∀ (s t : State) (b : Byte) (rest : List Input), s.input = .byte b :: rest → step s = .next t →
    t.notes = s.notes ∨
    ∃ d, t = { s with pst := .h1, input := rest, delivered := s.delivered ++ s.events, events := [],
                      notes := s.notes ++ [d] } ∧
      ((s.pst = .h2 ∧ d = .framingHdr2) ∨ (s.pst = .cm ∧ d = .framingMarker) ∨ (s.pst = .cmd ∧ d = .framingCommand) ∨
        (s.pst = .len ∧ d = .framingLength) ∨ (s.pst = .ck ∧ d = .checksumMismatch))

/-- R46. A step's events come after those of the steps before: the observed sequence only grows at its end, but for a
reset that cuts off a delivery. -/
def Obligations.ObservedEventsOnlyGrow : Prop :=
  ∀ s t : State, step s = .next t → (∀ k, s.input.head? ≠ some (.rstDelivering k)) → s.observed <+: t.observed

/-- R9, R74, which the spec derives in part. `KeyDown(k)` is `(k, true)` on port `kev` and `KeyUp(k)` is `(k, false)`;
and the code is never 0x00: none is so at reset, and where none has been so far, none is after a step. -/
def Obligations.KeyEventsNeverCarryTheSentinel : Prop :=
  (∀ k, Event.onKev (.keyDown k) = some (k, true) ∧ Event.onKev (.keyUp k) = some (k, false)) ∧
  (∀ k p, (k, p) ∈ State.reset.observed.filterMap Event.onKev → k ≠ 0x00) ∧
  ∀ s t : State, (∀ k p, (k, p) ∈ s.observed.filterMap Event.onKev → k ≠ 0x00) → step s = .next t →
    ∀ k p, (k, p) ∈ t.observed.filterMap Event.onKev → k ≠ 0x00

/-- R21, by the spec's decision D11. The seven states have the codes 0 to 6 in table order, a code read back is its
state, and code 7 is taken for H1. -/
def Obligations.ParserStateCodesFollowTheTable : Prop :=
  pstCode .h1 = 0 ∧ pstCode .h2 = 1 ∧ pstCode .cm = 2 ∧ pstCode .cmd = 3 ∧ pstCode .len = 4 ∧ pstCode .pl = 5 ∧
  pstCode .ck = 6 ∧ (∀ p, pstOfCode (pstCode p) = p) ∧ pstOfCode 7 = .h1
end

