-- ==== Sys2Proof/Laws/Checksum.lean ====
section
/-! SUPPORT. The 8-bit sum of a byte list and what the verdict compares. -/

namespace Sys2Proof.Machine

theorem foldl_add (bs : List Byte) (a : Byte) : bs.foldl (· + ·) a = a + byteSum bs := by
  induction bs generalizing a with
  | nil => simp [byteSum]
  | cons b bs ih =>
    unfold byteSum
    rw [List.foldl_cons, List.foldl_cons, ih, ih (0 + b), zero_add, add_assoc]

@[simp] theorem byteSum_nil : byteSum [] = 0 := rfl

@[simp] theorem byteSum_cons (b : Byte) (bs : List Byte) : byteSum (b :: bs) = b + byteSum bs := by
  unfold byteSum
  rw [List.foldl_cons, foldl_add, zero_add]
  rfl

theorem byteSum_append (xs ys : List Byte) : byteSum (xs ++ ys) = byteSum xs + byteSum ys := by
  induction xs with
  | nil => simp
  | cons x xs ih => simp [ih, BitVec.add_assoc]

/-- The wrapping sum is the low byte of the full sum. -/
theorem byteSum_toNat (bs : List Byte) : (byteSum bs).toNat = (bs.map BitVec.toNat).sum % 256 := by
  induction bs with
  | nil => simp
  | cons b bs ih => simp [BitVec.toNat_add, ih]

/-- The sum does not depend on the order of the bytes. -/
theorem byteSum_perm {xs ys : List Byte} (h : xs.Perm ys) : byteSum xs = byteSum ys := by
  induction h with
  | nil => rfl
  | cons x _ ih => simp [ih]
  | swap x y l => simp only [byteSum_cons]; rw [← BitVec.add_assoc, ← BitVec.add_assoc, BitVec.add_comm y x]
  | trans _ _ ih₁ ih₂ => exact ih₁.trans ih₂

/-- Replacing one byte changes the sum by the difference. -/
theorem byteSum_set (bs : List Byte) (i : Nat) (h : i < bs.length) (v : Byte) :
    byteSum (bs.set i v) = byteSum bs - bs[i] + v := by
  induction bs generalizing i with
  | nil => simp at h
  | cons b bs ih =>
    cases i with
    | zero => simp only [List.set_cons_zero, byteSum_cons, List.getElem_cons_zero]; ring
    | succ i =>
      simp only [List.set_cons_succ, byteSum_cons, List.getElem_cons_succ, ih i (by simpa using h)]
      ring

/-- The verdict, with the header constants added up. -/
theorem validate_iff (p : Packet) :
    validate p = true ↔ 0x02 + p.command + p.length + byteSum p.payload = p.checksum := by
  simp only [validate, packetSum, byteSum_cons, beq_iff_eq]
  constructor <;> intro h <;> rw [← h] <;> ring_nf <;> rfl

end Sys2Proof.Machine
end

