-- ==== Sys2Proof/Laws/Decode.lean ====
section
/-! SUPPORT. What the byte decoder gives in each framer state, and the two directions of the frame decoder's parts. -/

namespace Sys2Proof

/-- The mask of a row with a fixed byte keeps the byte. -/
theorem and_ones (b : Byte) : b &&& 255#8 = b := BitVec.and_allOnes (x := b)

theorem decodeByte_h1 (ctx : FramerCtx) (b : Byte) (h : ctx.pst = .h1) :
    decodeByte ctx b = .ok (if b = 87#8 then .h1Hdr1 else .h1Idle b) := by
  by_cases hb : b = 87#8 <;>
    simp [decodeByte, opcodeTable, Row.applies, List.find?, h, and_ones, noGuard, hb]

theorem decodeByte_h2 (ctx : FramerCtx) (b : Byte) (h : ctx.pst = .h2) :
    decodeByte ctx b = .ok (if b = 171#8 then .h2Hdr2 else .h2Err b) := by
  by_cases hb : b = 171#8 <;>
    simp [decodeByte, opcodeTable, Row.applies, List.find?, h, and_ones, noGuard, hb]

theorem decodeByte_cm (ctx : FramerCtx) (b : Byte) (h : ctx.pst = .cm) :
    decodeByte ctx b = .ok (if b = 0#8 then .cmMark else .cmErr b) := by
  by_cases hb : b = 0#8 <;>
    simp [decodeByte, opcodeTable, Row.applies, List.find?, h, and_ones, noGuard, hb]

theorem decodeByte_cmd (ctx : FramerCtx) (b : Byte) (h : ctx.pst = .cmd) :
    decodeByte ctx b =
      .ok (if b = 1#8 then .cmdMouse else if b = 2#8 then .cmdKbd else .cmdErr b) := by
  by_cases h1 : b = 1#8
  · simp [decodeByte, opcodeTable, Row.applies, List.find?, h, noGuard, h1]
  · by_cases h2 : b = 2#8 <;>
      simp [decodeByte, opcodeTable, Row.applies, List.find?, h, and_ones, noGuard, h1, h2]

theorem decodeByte_len (ctx : FramerCtx) (b : Byte) (h : ctx.pst = .len) :
    decodeByte ctx b =
      .ok (if ctx.cmd = 1#8 ∧ b = 5#8 then .lenMouse
        else if ctx.cmd = 2#8 ∧ b = 8#8 then .lenKbd else .lenErr b) := by
  by_cases h1 : ctx.cmd = 1#8 ∧ b = 5#8
  · simp [decodeByte, opcodeTable, Row.applies, List.find?, h, noGuard, h1]
  · by_cases h2 : ctx.cmd = 2#8 ∧ b = 8#8
    · simp [decodeByte, opcodeTable, Row.applies, List.find?, h, noGuard, h2]
    · have e1 : (decide (b = 5#8) && decide (ctx.cmd = 1#8)) = false := by
        rw [Bool.and_comm, ← Bool.decide_and]; exact decide_eq_false h1
      have e2 : (decide (b = 8#8) && decide (ctx.cmd = 2#8)) = false := by
        rw [Bool.and_comm, ← Bool.decide_and]; exact decide_eq_false h2
      simp [decodeByte, opcodeTable, Row.applies, List.find?, h, and_ones, noGuard, h1, h2, e1, e2]

theorem decodeByte_pl (ctx : FramerCtx) (b : Byte) (h : ctx.pst = .pl) :
    decodeByte ctx b =
      if ctx.idx.toNat + 1 < ctx.len.toNat then .ok (.plByte b)
      else if ctx.idx.toNat + 1 = ctx.len.toNat then .ok (.plLast b) else .error .noRow := by
  by_cases h1 : ctx.idx.toNat + 1 < ctx.len.toNat
  · simp [decodeByte, opcodeTable, Row.applies, List.find?, h, noGuard, h1]
  · by_cases h2 : ctx.idx.toNat + 1 = ctx.len.toNat <;>
      simp [decodeByte, opcodeTable, Row.applies, List.find?, h, noGuard, h1, h2]

theorem decodeByte_ck (ctx : FramerCtx) (b : Byte) (h : ctx.pst = .ck) :
    decodeByte ctx b = .ok (.ckByte b) := by
  simp [decodeByte, opcodeTable, Row.applies, List.find?, h, noGuard]

theorem decodeMouseBody_ok {body rest : List Byte} {i : Instr} (h : decodeMouseBody body = .ok (i, rest)) :
    ∃ bt dx dy wh rsv c, i = .frameMouse bt dx dy wh rsv c ∧ body = [bt, dx, dy, wh, rsv, c] ++ rest := by
  unfold decodeMouseBody at h
  split at h
  · cases h; exact ⟨_, _, _, _, _, _, rfl, rfl⟩
  · cases h

theorem decodeKbdBody_ok {body rest : List Byte} {i : Instr} (h : decodeKbdBody body = .ok (i, rest)) :
    ∃ md rsv k0 k1 k2 k3 k4 k5 c, i = .frameKbd md rsv k0 k1 k2 k3 k4 k5 c ∧
      body = [md, rsv, k0, k1, k2, k3, k4, k5, c] ++ rest := by
  unfold decodeKbdBody at h
  split at h
  · cases h; exact ⟨_, _, _, _, _, _, _, _, _, rfl, rfl⟩
  · cases h

end Sys2Proof
end

