-- ==== Sys2Proof/Laws/State.lean ====
section
/-! SUPPORT. One lemma per field per register update of Machine/Ops.lean, so that no proof unfolds a record update. -/

namespace Sys2Proof.Machine

@[simp] theorem State.beginStep_pst (s : State) : s.beginStep.pst = s.pst := rfl
@[simp] theorem State.beginStep_cmd (s : State) : s.beginStep.cmd = s.cmd := rfl
@[simp] theorem State.beginStep_len (s : State) : s.beginStep.len = s.len := rfl
@[simp] theorem State.beginStep_idx (s : State) : s.beginStep.idx = s.idx := rfl
@[simp] theorem State.beginStep_pay (s : State) : s.beginStep.pay = s.pay := rfl
@[simp] theorem State.beginStep_snapMod (s : State) : s.beginStep.snapMod = s.snapMod := rfl
@[simp] theorem State.beginStep_snapKey (s : State) : s.beginStep.snapKey = s.snapKey := rfl
@[simp] theorem State.beginStep_input (s : State) : s.beginStep.input = s.input := rfl
@[simp] theorem State.beginStep_delivered (s : State) : s.beginStep.delivered = s.delivered ++ s.events := rfl
@[simp] theorem State.beginStep_events (s : State) : s.beginStep.events = [] := rfl
@[simp] theorem State.beginStep_notes (s : State) : s.beginStep.notes = s.notes := rfl
@[simp] theorem State.beginStep_free (s : State) : s.beginStep.free = s.free := rfl

@[simp] theorem State.setPst_pst (s : State) (p : ParserState) : (s.setPst p).pst = p := rfl
@[simp] theorem State.setPst_cmd (s : State) (p : ParserState) : (s.setPst p).cmd = s.cmd := rfl
@[simp] theorem State.setPst_len (s : State) (p : ParserState) : (s.setPst p).len = s.len := rfl
@[simp] theorem State.setPst_idx (s : State) (p : ParserState) : (s.setPst p).idx = s.idx := rfl
@[simp] theorem State.setPst_pay (s : State) (p : ParserState) : (s.setPst p).pay = s.pay := rfl
@[simp] theorem State.setPst_snapMod (s : State) (p : ParserState) : (s.setPst p).snapMod = s.snapMod := rfl
@[simp] theorem State.setPst_snapKey (s : State) (p : ParserState) : (s.setPst p).snapKey = s.snapKey := rfl
@[simp] theorem State.setPst_input (s : State) (p : ParserState) : (s.setPst p).input = s.input := rfl
@[simp] theorem State.setPst_delivered (s : State) (p : ParserState) : (s.setPst p).delivered = s.delivered := rfl
@[simp] theorem State.setPst_events (s : State) (p : ParserState) : (s.setPst p).events = s.events := rfl
@[simp] theorem State.setPst_notes (s : State) (p : ParserState) : (s.setPst p).notes = s.notes := rfl
@[simp] theorem State.setPst_free (s : State) (p : ParserState) : (s.setPst p).free = s.free := rfl

@[simp] theorem State.setCmd_pst (s : State) (c : Byte) : (s.setCmd c).pst = s.pst := rfl
@[simp] theorem State.setCmd_cmd (s : State) (c : Byte) : (s.setCmd c).cmd = c := rfl
@[simp] theorem State.setCmd_len (s : State) (c : Byte) : (s.setCmd c).len = s.len := rfl
@[simp] theorem State.setCmd_idx (s : State) (c : Byte) : (s.setCmd c).idx = s.idx := rfl
@[simp] theorem State.setCmd_pay (s : State) (c : Byte) : (s.setCmd c).pay = s.pay := rfl
@[simp] theorem State.setCmd_snapMod (s : State) (c : Byte) : (s.setCmd c).snapMod = s.snapMod := rfl
@[simp] theorem State.setCmd_snapKey (s : State) (c : Byte) : (s.setCmd c).snapKey = s.snapKey := rfl
@[simp] theorem State.setCmd_input (s : State) (c : Byte) : (s.setCmd c).input = s.input := rfl
@[simp] theorem State.setCmd_delivered (s : State) (c : Byte) : (s.setCmd c).delivered = s.delivered := rfl
@[simp] theorem State.setCmd_events (s : State) (c : Byte) : (s.setCmd c).events = s.events := rfl
@[simp] theorem State.setCmd_notes (s : State) (c : Byte) : (s.setCmd c).notes = s.notes := rfl
@[simp] theorem State.setCmd_free (s : State) (c : Byte) : (s.setCmd c).free = s.free := rfl

@[simp] theorem State.openPayload_pst (s : State) (n : Byte) : (s.openPayload n).pst = s.pst := rfl
@[simp] theorem State.openPayload_cmd (s : State) (n : Byte) : (s.openPayload n).cmd = s.cmd := rfl
@[simp] theorem State.openPayload_len (s : State) (n : Byte) : (s.openPayload n).len = n := rfl
@[simp] theorem State.openPayload_idx (s : State) (n : Byte) : (s.openPayload n).idx = 0 := rfl
@[simp] theorem State.openPayload_pay (s : State) (n : Byte) : (s.openPayload n).pay = s.pay := rfl
@[simp] theorem State.openPayload_snapMod (s : State) (n : Byte) : (s.openPayload n).snapMod = s.snapMod := rfl
@[simp] theorem State.openPayload_snapKey (s : State) (n : Byte) : (s.openPayload n).snapKey = s.snapKey := rfl
@[simp] theorem State.openPayload_input (s : State) (n : Byte) : (s.openPayload n).input = s.input := rfl
@[simp] theorem State.openPayload_delivered (s : State) (n : Byte) : (s.openPayload n).delivered = s.delivered := rfl
@[simp] theorem State.openPayload_events (s : State) (n : Byte) : (s.openPayload n).events = s.events := rfl
@[simp] theorem State.openPayload_notes (s : State) (n : Byte) : (s.openPayload n).notes = s.notes := rfl
@[simp] theorem State.openPayload_free (s : State) (n : Byte) : (s.openPayload n).free = s.free := rfl

@[simp] theorem State.note_pst (s : State) (d : Discard) : (s.note d).pst = s.pst := rfl
@[simp] theorem State.note_cmd (s : State) (d : Discard) : (s.note d).cmd = s.cmd := rfl
@[simp] theorem State.note_len (s : State) (d : Discard) : (s.note d).len = s.len := rfl
@[simp] theorem State.note_idx (s : State) (d : Discard) : (s.note d).idx = s.idx := rfl
@[simp] theorem State.note_pay (s : State) (d : Discard) : (s.note d).pay = s.pay := rfl
@[simp] theorem State.note_snapMod (s : State) (d : Discard) : (s.note d).snapMod = s.snapMod := rfl
@[simp] theorem State.note_snapKey (s : State) (d : Discard) : (s.note d).snapKey = s.snapKey := rfl
@[simp] theorem State.note_input (s : State) (d : Discard) : (s.note d).input = s.input := rfl
@[simp] theorem State.note_delivered (s : State) (d : Discard) : (s.note d).delivered = s.delivered := rfl
@[simp] theorem State.note_events (s : State) (d : Discard) : (s.note d).events = s.events := rfl
@[simp] theorem State.note_notes (s : State) (d : Discard) : (s.note d).notes = s.notes ++ [d] := rfl
@[simp] theorem State.note_free (s : State) (d : Discard) : (s.note d).free = s.free := rfl

@[simp] theorem State.emit_pst (s : State) (es : List Event) : (s.emit es).pst = s.pst := rfl
@[simp] theorem State.emit_cmd (s : State) (es : List Event) : (s.emit es).cmd = s.cmd := rfl
@[simp] theorem State.emit_len (s : State) (es : List Event) : (s.emit es).len = s.len := rfl
@[simp] theorem State.emit_idx (s : State) (es : List Event) : (s.emit es).idx = s.idx := rfl
@[simp] theorem State.emit_pay (s : State) (es : List Event) : (s.emit es).pay = s.pay := rfl
@[simp] theorem State.emit_snapMod (s : State) (es : List Event) : (s.emit es).snapMod = s.snapMod := rfl
@[simp] theorem State.emit_snapKey (s : State) (es : List Event) : (s.emit es).snapKey = s.snapKey := rfl
@[simp] theorem State.emit_input (s : State) (es : List Event) : (s.emit es).input = s.input := rfl
@[simp] theorem State.emit_delivered (s : State) (es : List Event) : (s.emit es).delivered = s.delivered := rfl
@[simp] theorem State.emit_events (s : State) (es : List Event) : (s.emit es).events = s.events ++ es := rfl
@[simp] theorem State.emit_notes (s : State) (es : List Event) : (s.emit es).notes = s.notes := rfl
@[simp] theorem State.emit_free (s : State) (es : List Event) : (s.emit es).free = s.free := rfl

@[simp] theorem State.setSnapshot_pst (s : State) (md : Byte) (new : Vector Byte Config.keySlots) : (s.setSnapshot md new).pst = s.pst := rfl
@[simp] theorem State.setSnapshot_cmd (s : State) (md : Byte) (new : Vector Byte Config.keySlots) : (s.setSnapshot md new).cmd = s.cmd := rfl
@[simp] theorem State.setSnapshot_len (s : State) (md : Byte) (new : Vector Byte Config.keySlots) : (s.setSnapshot md new).len = s.len := rfl
@[simp] theorem State.setSnapshot_idx (s : State) (md : Byte) (new : Vector Byte Config.keySlots) : (s.setSnapshot md new).idx = s.idx := rfl
@[simp] theorem State.setSnapshot_pay (s : State) (md : Byte) (new : Vector Byte Config.keySlots) : (s.setSnapshot md new).pay = s.pay := rfl
@[simp] theorem State.setSnapshot_snapMod (s : State) (md : Byte) (new : Vector Byte Config.keySlots) : (s.setSnapshot md new).snapMod = md := rfl
@[simp] theorem State.setSnapshot_snapKey (s : State) (md : Byte) (new : Vector Byte Config.keySlots) : (s.setSnapshot md new).snapKey = new := rfl
@[simp] theorem State.setSnapshot_input (s : State) (md : Byte) (new : Vector Byte Config.keySlots) : (s.setSnapshot md new).input = s.input := rfl
@[simp] theorem State.setSnapshot_delivered (s : State) (md : Byte) (new : Vector Byte Config.keySlots) : (s.setSnapshot md new).delivered = s.delivered := rfl
@[simp] theorem State.setSnapshot_events (s : State) (md : Byte) (new : Vector Byte Config.keySlots) : (s.setSnapshot md new).events = s.events := rfl
@[simp] theorem State.setSnapshot_notes (s : State) (md : Byte) (new : Vector Byte Config.keySlots) : (s.setSnapshot md new).notes = s.notes := rfl
@[simp] theorem State.setSnapshot_free (s : State) (md : Byte) (new : Vector Byte Config.keySlots) : (s.setSnapshot md new).free = s.free := rfl

@[simp] theorem State.applyReset_pst (s : State) (k : Nat) : (s.applyReset k).pst = .h1 := rfl
@[simp] theorem State.applyReset_cmd (s : State) (k : Nat) : (s.applyReset k).cmd = Config.freeCmd s.free := rfl
@[simp] theorem State.applyReset_len (s : State) (k : Nat) : (s.applyReset k).len = Config.freeLen s.free := rfl
@[simp] theorem State.applyReset_idx (s : State) (k : Nat) : (s.applyReset k).idx = Config.freeIdx s.free := rfl
@[simp] theorem State.applyReset_pay (s : State) (k : Nat) : (s.applyReset k).pay = Config.freePay s.free := rfl
@[simp] theorem State.applyReset_snapMod (s : State) (k : Nat) : (s.applyReset k).snapMod = 0 := rfl
@[simp] theorem State.applyReset_snapKey (s : State) (k : Nat) : (s.applyReset k).snapKey = Vector.replicate Config.keySlots Config.noKey := rfl
@[simp] theorem State.applyReset_input (s : State) (k : Nat) : (s.applyReset k).input = s.input := rfl
@[simp] theorem State.applyReset_delivered (s : State) (k : Nat) : (s.applyReset k).delivered = s.delivered ++ s.events.take k := rfl
@[simp] theorem State.applyReset_events (s : State) (k : Nat) : (s.applyReset k).events = [] := rfl
@[simp] theorem State.applyReset_notes (s : State) (k : Nat) : (s.applyReset k).notes = s.notes := rfl
@[simp] theorem State.applyReset_free (s : State) (k : Nat) : (s.applyReset k).free = s.free + 1 := rfl

@[simp] theorem State.ctx_pst (s : State) : s.ctx.pst = s.pst := rfl
@[simp] theorem State.ctx_cmd (s : State) : s.ctx.cmd = s.cmd := rfl
@[simp] theorem State.ctx_len (s : State) : s.ctx.len = s.len := rfl
@[simp] theorem State.ctx_idx (s : State) : s.ctx.idx = s.idx := rfl

/-- Taking an input leaves the decoding context alone. -/
@[simp] theorem State.ctx_withInput (s : State) (l : List Input) : State.ctx { s with input := l } = s.ctx := rfl

end Sys2Proof.Machine
end

