-- ==== Sys2Proof/Laws/Framer.lean ====
section
/-! SUPPORT. Everything one byte can do: `ByteStep` has one constructor per outcome, and `feedByte_next` says that a
byte that gives a next state gives one of them. Later proofs split on it and never unfold the state machine. -/

namespace Sys2Proof.Machine

@[simp] theorem andThen_next (s : State) (k : State → Host.Outcome State Fault Refusal) :
    andThen (.next s) k = k s := rfl

@[simp] theorem andThen_fault (r : Fault) (k : State → Host.Outcome State Fault Refusal) :
    andThen (.fault r) k = .fault r := rfl

@[simp] theorem andThen_refused (r : Refusal) (k : State → Host.Outcome State Fault Refusal) :
    andThen (.refused r) k = .refused r := rfl

theorem andThen_eq_next {o : Host.Outcome State Fault Refusal} {k : State → Host.Outcome State Fault Refusal}
    {t : State} : andThen o k = .next t ↔ ∃ s, o = .next s ∧ k s = .next t := by
  cases o <;> simp [andThen]

theorem andThen_assoc (o : Host.Outcome State Fault Refusal) (k l : State → Host.Outcome State Fault Refusal) :
    andThen (andThen o k) l = andThen o (fun s => andThen (k s) l) := by
  cases o <;> rfl

/-- What one byte `b` can do to a state `s`, when it gives a next state. -/
inductive ByteStep (s : State) (b : Byte) : State → Prop where
  /-- R101, R102, R103, R105: the framer only moves. -/
  | move (p : ParserState)
      (h : (s.pst = .h1 ∧ b = 0x57 ∧ p = .h2) ∨ (s.pst = .h1 ∧ b ≠ 0x57 ∧ p = .h1) ∨
        (s.pst = .h2 ∧ b = 0xAB ∧ p = .cm) ∨ (s.pst = .cm ∧ b = 0x00 ∧ p = .cmd)) :
      ByteStep s b (s.beginStep.setPst p)
  /-- R104, R106, R109, R112, R202: a framing error. -/
  | framing (d : Discard)
      (h : (s.pst = .h2 ∧ b ≠ 0xAB ∧ d = .framingHdr2) ∨ (s.pst = .cm ∧ b ≠ 0x00 ∧ d = .framingMarker) ∨
        (s.pst = .cmd ∧ b ≠ 0x01 ∧ b ≠ 0x02 ∧ d = .framingCommand) ∨
        (s.pst = .len ∧ ¬(s.cmd = 0x01 ∧ b = 0x05) ∧ ¬(s.cmd = 0x02 ∧ b = 0x08) ∧ d = .framingLength)) :
      ByteStep s b ((s.beginStep.setPst .h1).note d)
  /-- R107, R108: the command code is recorded. -/
  | command (hp : s.pst = .cmd) (hb : b = 0x01 ∨ b = 0x02) : ByteStep s b ((s.beginStep.setCmd b).setPst .len)
  /-- R110, R111: the length is recorded. -/
  | length (hp : s.pst = .len) (hb : (s.cmd = 0x01 ∧ b = 0x05) ∨ (s.cmd = 0x02 ∧ b = 0x08)) :
      ByteStep s b ((s.beginStep.openPayload b).setPst .pl)
  /-- R113, R114: a payload byte is stored. -/
  | payload (p : ParserState) (hp : s.pst = .pl) (hi : s.idx.toNat < Config.payloadMax)
      (h : (s.idx.toNat + 1 < s.len.toNat ∧ p = .pl) ∨ (s.idx.toNat + 1 = s.len.toNat ∧ p = .ck)) :
      ByteStep s b { s.beginStep with pay := s.pay.set s.idx.toNat b hi, idx := s.idx + 1, pst := p }
  /-- R115, R141: the packet is discarded. -/
  | mismatch (p : Packet) (hp : s.pst = .ck) (hk : s.packet? b = some p) (hv : validate p = false) :
      ByteStep s b ((s.beginStep.setPst .h1).note .checksumMismatch)
  /-- R115, R142, R154, R155: a keyboard packet. -/
  | keyboard (p : Packet) (md rsv : Byte) (new : Vector Byte Config.keySlots) (hp : s.pst = .ck)
      (hk : s.packet? b = some p) (hv : validate p = true) (hc : s.cmd = 0x02)
      (ho : kbdOperands p.payload = some (md, rsv, new)) :
      ByteStep s b (kbdTranslate md rsv new (s.beginStep.setPst .h1))
  /-- R115, R142, R174: a mouse packet. -/
  | mouse (p : Packet) (bt dx dy wh rsv : Byte) (hp : s.pst = .ck)
      (hk : s.packet? b = some p) (hv : validate p = true) (hc : s.cmd = 0x01)
      (ho : mouseOperands p.payload = some (bt, dx, dy, wh, rsv)) :
      ByteStep s b (mouseTranslate bt dx dy wh rsv (s.beginStep.setPst .h1))

theorem packet?_eq {s : State} {b : Byte} {p : Packet} (h : s.packet? b = some p) :
    s.len.toNat ≤ Config.payloadMax ∧ p = ⟨s.cmd, s.len, s.pay.toList.take s.len.toNat, b⟩ := by
  unfold State.packet? at h
  split at h
  · cases h; exact ⟨‹_›, rfl⟩
  · cases h

theorem appendPayload_next {s t : State} {b : Byte} {p : ParserState} (h : s.appendPayload b p = .next t) :
    ∃ hi : s.idx.toNat < Config.payloadMax,
      t = { s.beginStep with pay := s.pay.set s.idx.toNat b hi, idx := s.idx + 1, pst := p } := by
  unfold State.appendPayload at h
  split at h
  · cases h; exact ⟨_, rfl⟩
  · cases h

theorem execCkByte_next {s t : State} {b : Byte} (hp : s.pst = .ck) (h : execCkByte b s = .next t) :
    ByteStep s b t := by
  unfold execCkByte at h
  split at h
  · rename_i p hk
    unfold completePacket at h
    split at h
    · rename_i hv
      have hcmd : p.command = s.cmd := by rw [(packet?_eq hk).2]
      unfold dispatch at h
      split at h
      · split at h
        · cases h; exact .keyboard p _ _ _ hp hk hv (hcmd ▸ ‹_›) ‹_›
        · cases h
      · split at h
        · split at h
          · cases h; exact .mouse p _ _ _ _ _ hp hk hv (hcmd ▸ ‹_›) ‹_›
          · cases h
        · cases h
    · cases h; exact .mismatch p hp hk (by simpa using ‹¬ validate p = true›)
  · cases h

/-- One byte, when it gives a next state, does one of the things `ByteStep` lists. -/
theorem feedByte_next {s t : State} {b : Byte} (h : feedByte b s = .next t) : ByteStep s b t := by
  unfold feedByte at h
  split at h <;> rename_i hp
  · split at h <;> cases h
    · exact .move _ (by simp_all)
    · exact .move _ (by simp_all)
  · split at h <;> cases h
    · exact .move _ (by simp_all)
    · exact .framing _ (by simp_all)
  · split at h <;> cases h
    · exact .move _ (by simp_all)
    · exact .framing _ (by simp_all)
  · split at h
    · cases h; subst b; exact .command hp (.inl rfl)
    · split at h <;> cases h
      · subst b; exact .command hp (.inr rfl)
      · exact .framing _ (by simp_all)
  · split at h
    · rename_i hb; cases h; obtain ⟨hc, rfl⟩ := hb; exact .length hp (.inl ⟨hc, rfl⟩)
    · split at h <;> rename_i hb <;> cases h
      · obtain ⟨hc, rfl⟩ := hb; exact .length hp (.inr ⟨hc, rfl⟩)
      · exact .framing _ (by simp_all)
  · split at h
    · obtain ⟨hi, rfl⟩ := appendPayload_next h; exact .payload _ hp hi (.inl ⟨‹_›, rfl⟩)
    · split at h
      · obtain ⟨hi, rfl⟩ := appendPayload_next h; exact .payload _ hp hi (.inr ⟨‹_›, rfl⟩)
      · cases h
  · exact execCkByte_next hp h

/-- A payload write in range goes up by one without wrapping (R24). -/
theorem idx_succ {i : PayloadIndex} (h : i.toNat < Config.payloadMax) : (i + 1).toNat = i.toNat + 1 := by
  have : i.toNat < 8 := h
  simp [BitVec.toNat_add]; omega

/-- A payload byte in range: stored, and the framer is in CK after the last one. -/
theorem feedByte_payload {s : State} (b : Byte) (hp : s.pst = .pl) (h : s.idx.toNat < s.len.toNat)
    (hi : s.idx.toNat < Config.payloadMax) :
    feedByte b s = .next { s.beginStep with
      pay := s.pay.set s.idx.toNat b hi, idx := s.idx + 1,
      pst := if s.idx.toNat + 1 = s.len.toNat then .ck else .pl } := by
  rw [feedByte, hp]; dsimp only
  by_cases h' : s.idx.toNat + 1 = s.len.toNat
  · rw [if_neg (by omega), if_pos h', execPlLast, State.appendPayload, dif_pos hi, if_pos h']
  · rw [if_pos (by omega), execPlByte, State.appendPayload, dif_pos hi, if_neg h']

/-- The rest of a payload, taken whole: the bytes stand in the buffer from `idx` on, and the framer is in CK. -/
theorem feedBytes_payload (xs : List Byte) (s : State) (hp : s.pst = .pl) (hx : xs ≠ [])
    (hl : s.idx.toNat + xs.length = s.len.toNat) (h8 : s.len.toNat ≤ Config.payloadMax) :
    ∃ t, feedBytes xs s = .next t ∧ t = { s.beginStep with pst := .ck, idx := t.idx, pay := t.pay } ∧
      t.idx.toNat = s.len.toNat ∧
      t.pay.toList = s.pay.toList.take s.idx.toNat ++ xs ++ s.pay.toList.drop s.len.toNat := by
  induction xs generalizing s with
  | nil => contradiction
  | cons x xs ih =>
    simp only [List.length_cons] at hl
    have hi : s.idx.toNat < Config.payloadMax := by omega
    rw [feedBytes, feedByte_payload x hp (by omega) hi, andThen_next]
    have hs := idx_succ hi
    cases xs with
    | nil =>
      simp only [List.length_nil, Nat.zero_add] at hl
      rw [if_pos hl]
      refine ⟨_, rfl, rfl, hl ▸ hs, ?_⟩
      simp only [Vector.toList_set]
      rw [List.set_eq_take_append_cons_drop, if_pos (by simpa using hi), ← hl]; simp
    | cons y ys =>
      simp only [List.length_cons] at hl
      rw [if_neg (by omega)]
      obtain ⟨t, ht, he, hi', hpay⟩ := ih
        { s.beginStep with pay := s.pay.set s.idx.toNat x hi, idx := s.idx + 1, pst := .pl } rfl (by simp)
        (by show (s.idx + 1).toNat + _ = _; rw [hs]; simp; omega) h8
      refine ⟨t, ht, ?_, by rw [hi']; rfl, ?_⟩
      · rw [he]; simp [State.beginStep]
      · rw [hpay]; dsimp only; rw [hs]
        have h8' : s.pay.toList.length = 8 := by simp
        have hi8 : s.idx.toNat < 8 := hi
        simp only [Vector.toList_set, State.beginStep_len]
        rw [List.take_set, List.drop_set_of_lt (by omega), List.set_eq_take_append_cons_drop, if_pos (by simp; omega)]
        simp [List.take_take]

/-- The CK byte where the packet's slice is in the buffer. -/
theorem execCkByte_eq {s : State} (b : Byte) (h : s.len.toNat ≤ Config.payloadMax) :
    execCkByte b s =
      completePacket ⟨s.cmd, s.len, s.pay.toList.take s.len.toNat, b⟩ (s.beginStep.setPst .h1) := by
  unfold execCkByte State.packet?
  rw [if_pos h]

theorem feedBytes_append (xs ys : List Byte) (s : State) :
    feedBytes (xs ++ ys) s = andThen (feedBytes xs s) (feedBytes ys) := by
  induction xs generalizing s with
  | nil => rfl
  | cons x xs ih =>
    simp only [List.cons_append, feedBytes, andThen_assoc]
    congr 1; funext t; exact ih t

/-- A property that every byte keeps is kept by every list of bytes. -/
theorem feedBytes_keeps {P : State → Prop} (h : ∀ s t b, P s → feedByte b s = .next t → P t) (bs : List Byte)
    {s t : State} (hs : P s) (ht : feedBytes bs s = .next t) : P t := by
  induction bs generalizing s with
  | nil => cases ht; exact hs
  | cons b bs ih =>
    obtain ⟨u, hu, ht⟩ := andThen_eq_next.1 ht
    exact ih (h _ _ _ hs hu) ht

end Sys2Proof.Machine
end

