-- ==== Sys2Proof/Laws/Keyboard.lean ====
section
/-! SUPPORT. The loop of R152 and R153: which keys it gives, and that it gives each once, in slot order. -/

namespace Sys2Proof.Machine

theorem mem_keysOnlyIn (other seen slots : List Byte) (k : Byte) :
    k ∈ keysOnlyIn other seen slots ↔ k ≠ Config.noKey ∧ k ∈ slots ∧ k ∉ other ∧ k ∉ seen := by
  induction slots generalizing seen with
  | nil => simp [keysOnlyIn]
  | cons j slots ih =>
    unfold keysOnlyIn
    split <;> rename_i h <;> simp only [List.mem_cons, ih, List.mem_append, List.not_mem_nil, or_false] <;>
      by_cases hj : k = j <;> simp_all

theorem nodup_keysOnlyIn (other seen slots : List Byte) : (keysOnlyIn other seen slots).Nodup := by
  induction slots generalizing seen with
  | nil => simp [keysOnlyIn]
  | cons j slots ih =>
    unfold keysOnlyIn
    split
    · refine List.nodup_cons.2 ⟨fun h => ?_, ih _⟩
      simp [mem_keysOnlyIn] at h
    · exact ih _

theorem keysOnlyIn_sublist (other seen slots : List Byte) : (keysOnlyIn other seen slots).Sublist slots := by
  induction slots generalizing seen with
  | nil => simp [keysOnlyIn]
  | cons j slots ih =>
    unfold keysOnlyIn
    split
    · exact (ih _).cons_cons _
    · exact (ih _).cons _

theorem keysOnlyIn_length (other seen slots : List Byte) : (keysOnlyIn other seen slots).length ≤ slots.length :=
  (keysOnlyIn_sublist other seen slots).length_le

/-- What is passed over matters only through which keys are in it. -/
theorem keysOnlyIn_congr {other other' : List Byte} (slots : List Byte) {seen seen' : List Byte}
    (ho : ∀ k, k ≠ Config.noKey → (k ∈ other ↔ k ∈ other')) (hs : ∀ k, k ≠ Config.noKey → (k ∈ seen ↔ k ∈ seen')) :
    keysOnlyIn other seen slots = keysOnlyIn other' seen' slots := by
  induction slots generalizing seen seen' with
  | nil => rfl
  | cons j slots ih =>
    have hs' : ∀ k, k ≠ Config.noKey → (k ∈ seen ++ [j] ↔ k ∈ seen' ++ [j]) := by
      intro k hk; simp [hs k hk]
    unfold keysOnlyIn
    by_cases hj : j = Config.noKey
    · simp only [hj, ne_eq, not_true_eq_false, false_and, if_false]
      exact ih (by simpa [hj] using hs')
    · rw [ih hs']; simp only [ho j hj, hs j hj]

@[simp] theorem keyUp_mem_releases (old new : List Byte) (k : Byte) :
    .keyUp k ∈ releases old new ↔ k ∈ keysOnlyIn new [] old := by simp [releases]

@[simp] theorem keyDown_not_mem_releases (old new : List Byte) (k : Byte) : .keyDown k ∉ releases old new := by
  simp [releases]

@[simp] theorem keyDown_mem_presses (old new : List Byte) (k : Byte) :
    .keyDown k ∈ presses old new ↔ k ∈ keysOnlyIn old [] new := by simp [presses]

@[simp] theorem keyUp_not_mem_presses (old new : List Byte) (k : Byte) : .keyUp k ∉ presses old new := by
  simp [presses]

end Sys2Proof.Machine
end

