-- ==== Sys2Proof/Laws/PerInstr.lean ====
section
/-! SUPPORT. Statements made of every instruction as syntax, one lemma per constructor. -/

namespace Sys2Proof.Laws.EncodedBits

/-- The encoder gives an instruction as many bits as the opcode table gives its row (R65, R78). -/
def Statement (i : Instr) : Prop := Config.byteWidth * (encode i).length = i.tableBits

theorem h1Hdr1 : Statement .h1Hdr1 := rfl
theorem h1Idle (b : Byte) : Statement (.h1Idle b) := rfl
theorem h2Hdr2 : Statement .h2Hdr2 := rfl
theorem h2Err (b : Byte) : Statement (.h2Err b) := rfl
theorem cmMark : Statement .cmMark := rfl
theorem cmErr (b : Byte) : Statement (.cmErr b) := rfl
theorem cmdMouse : Statement .cmdMouse := rfl
theorem cmdKbd : Statement .cmdKbd := rfl
theorem cmdErr (b : Byte) : Statement (.cmdErr b) := rfl
theorem lenMouse : Statement .lenMouse := rfl
theorem lenKbd : Statement .lenKbd := rfl
theorem lenErr (b : Byte) : Statement (.lenErr b) := rfl
theorem plByte (b : Byte) : Statement (.plByte b) := rfl
theorem plLast (b : Byte) : Statement (.plLast b) := rfl
theorem ckByte (b : Byte) : Statement (.ckByte b) := rfl
theorem frameMouse (bt dx dy wh rsv c : Byte) : Statement (.frameMouse bt dx dy wh rsv c) := by
  simp [Statement, encode, Instr.tableBits, mouseFrameBits, frameOverhead]
theorem frameKbd (md rsv k0 k1 k2 k3 k4 k5 c : Byte) : Statement (.frameKbd md rsv k0 k1 k2 k3 k4 k5 c) := by
  simp [Statement, encode, Instr.tableBits, kbdFrameBits, frameOverhead]

end Sys2Proof.Laws.EncodedBits
end

