-- ==== Sys2Proof/Laws/Step.lean ====
section
/-! SUPPORT. One step and a run, taken apart by the next input. -/

namespace Sys2Proof.Machine

theorem step_waiting {s : State} (h : s.input = []) : step s = .next s := by
  unfold step; rw [h]

theorem step_input {s : State} {i : Input} {rest : List Input} (h : s.input = i :: rest) :
    step s = takeInput i { s with input := rest } := by
  unfold step; rw [h]

@[simp] theorem runSteps_zero (s : State) : runSteps 0 s = .next s := rfl

theorem runSteps_succ (n : Nat) (s : State) : runSteps (n + 1) s = andThen (step s) (runSteps n) := by
  have h : Sys2Proof.core.step = step := rfl
  unfold runSteps
  simp only [Host.Core.run, h]
  cases step s <;> rfl

@[simp] theorem runBytes_nil (s : State) : runBytes [] s = .next s := rfl

theorem runBytes_cons (b : Byte) (bs : List Byte) (s : State) :
    runBytes (b :: bs) s = andThen (takeByte b { s with input := bs.map .byte ++ s.input }) (runSteps bs.length) := by
  unfold runBytes
  rw [List.length_cons, runSteps_succ]
  rfl

end Sys2Proof.Machine
end

