-- ==== Sys2Proof/Tests/Slice0.lean ====
section
/-! SUPPORT. The model's own tests. Every expected result is the spec's: the vectors of 95_test_vectors.md (F, K, KB, MS, RS
and W numbers are its own) and the encodings of 30_encoding.md and 40_framer.md. Each test is one step or one operation.
A `witness_…` theorem shows a concrete state and operands that meet the hypotheses of the statement it is named after. -/

namespace Sys2Proof.Tests

open Sys2Proof Sys2Proof.Machine

/-- A small state: the framer's registers given, the rest as at reset. -/
def at_ (pst : ParserState) (cmd len : Byte) (idx : PayloadIndex) (pay : Vector Byte 8 := Vector.replicate 8 0)
    (keys : Vector Byte 6 := Vector.replicate 6 0) (input : List Input := []) : State :=
  { State.reset with pst, cmd, len, idx, pay, snapKey := keys, input }

/-- The outcome is a next state that meets the check. -/
def nextIs (o : Host.Outcome State Fault Refusal) (p : State → Bool) : Bool :=
  match o with
  | .next s => p s
  | .fault _ => false
  | .refused _ => false

/-- The outcome is the fault. -/
def faultIs (o : Host.Outcome State Fault Refusal) (f : Fault) : Bool :=
  match o with
  | .next _ => false
  | .fault r => r == f
  | .refused _ => false

/-- What the decoder gives for a byte. -/
def dec (pst : ParserState) (cmd len : Byte) (idx : PayloadIndex) (b : Byte) : Option Instr :=
  (decodeByte ⟨pst, cmd, len, idx⟩ b).toOption

/-- One step on the burst of bytes, from the state. -/
def stepBurst (s : State) (bs : List Byte) : Host.Outcome State Fault Refusal := step { s with input := [.burst bs] }

/-! ## Well-formedness: each check refuses an ill-formed term -/

theorem smoke_h1Idle : (Instr.h1Idle 0x57).wellFormed = false := by decide
theorem smoke_h2Err : (Instr.h2Err 0xAB).wellFormed = false := by decide
theorem smoke_cmErr : (Instr.cmErr 0x00).wellFormed = false := by decide
theorem smoke_cmdErr_mouse : (Instr.cmdErr 0x01).wellFormed = false := by decide
theorem smoke_cmdErr_kbd : (Instr.cmdErr 0x02).wellFormed = false := by decide
theorem smoke_state : Instr.appliesIn ⟨.h2, 0, 0, 0⟩ .h1Hdr1 = false := by decide
theorem smoke_frameOutsideHunt : Instr.appliesIn ⟨.ck, 0, 0, 0⟩ (.frameMouse 0 0 0 0 0 0) = false := by decide
theorem smoke_lenMouse_guard : Instr.appliesIn ⟨.len, 0x02, 0, 0⟩ .lenMouse = false := by decide
theorem smoke_lenKbd_guard : Instr.appliesIn ⟨.len, 0x01, 0, 0⟩ .lenKbd = false := by decide
theorem smoke_lenErr_mouse : Instr.appliesIn ⟨.len, 0x01, 0, 0⟩ (.lenErr 0x05) = false := by decide
theorem smoke_lenErr_kbd : Instr.appliesIn ⟨.len, 0x02, 0, 0⟩ (.lenErr 0x08) = false := by decide
theorem smoke_plByte_guard : Instr.appliesIn ⟨.pl, 0x01, 5, 4⟩ (.plByte 0) = false := by decide
theorem smoke_plLast_guard : Instr.appliesIn ⟨.pl, 0x01, 5, 3⟩ (.plLast 0) = false := by decide

/-! ## Decoding: a word of every row, written out from its encoding -/

theorem test_decode_h1Hdr1 : dec .h1 0 0 0 0b01010111 = some .h1Hdr1 := by decide
theorem test_decode_h1Idle : dec .h1 0 0 0 0b10101011 = some (.h1Idle 0xAB) := by decide
theorem test_decode_h2Hdr2 : dec .h2 0 0 0 0b10101011 = some .h2Hdr2 := by decide
theorem test_decode_h2Err : dec .h2 0 0 0 0b01010111 = some (.h2Err 0x57) := by decide
theorem test_decode_cmMark : dec .cm 0 0 0 0b00000000 = some .cmMark := by decide
theorem test_decode_cmErr : dec .cm 0 0 0 0b00000001 = some (.cmErr 0x01) := by decide
theorem test_decode_cmdMouse : dec .cmd 0 0 0 0b00000001 = some .cmdMouse := by decide
theorem test_decode_cmdKbd : dec .cmd 0 0 0 0b00000010 = some .cmdKbd := by decide
theorem test_decode_cmdErr : dec .cmd 0 0 0 0b00000011 = some (.cmdErr 0x03) := by decide
theorem test_decode_lenMouse : dec .len 0x01 0 0 0b00000101 = some .lenMouse := by decide
theorem test_decode_lenKbd : dec .len 0x02 0 0 0b00001000 = some .lenKbd := by decide
theorem test_decode_lenErr : dec .len 0x02 0 0 0b00000101 = some (.lenErr 0x05) := by decide
theorem test_decode_plByte : dec .pl 0x02 8 6 0b10101011 = some (.plByte 0xAB) := by decide
theorem test_decode_plLast : dec .pl 0x02 8 7 0b11111111 = some (.plLast 0xFF) := by decide
theorem test_decode_ckByte : dec .ck 0x02 8 8 0b01010111 = some (.ckByte 0x57) := by decide
theorem test_decode_plPastEnd : dec .pl 0x02 8 8 0x00 = none := by decide

/-- W5's frame as the table numbers its bits: the first byte in bits 7 to 0. -/
theorem test_decode_frameMouse :
    decodeTableWord 88 0x1700FF0AFB0B050100AB57 = some (.frameMouse 0x0B 0xFB 0x0A 0xFF 0x00 0x17) := by decide
/-- W2's frame as the table numbers its bits. -/
theorem test_decode_frameKbd :
    decodeTableWord 112 0x1500000000050400000802 = none ∧
    decodeTableWord 112 0x150000000005040000080200AB57 =
      some (.frameKbd 0x00 0x00 0x04 0x05 0x00 0x00 0x00 0x00 0x15) := by decide
theorem test_tableWords :
    decodeTableWord 8 0x57 = some .h1Hdr1 ∧ decodeTableWord 8 0xAB = some .h2Hdr2 ∧
    decodeTableWord 8 0x00 = some .cmMark ∧ decodeTableWord 8 0x01 = some .cmdMouse ∧
    decodeTableWord 8 0x02 = some .cmdKbd ∧ decodeTableWord 8 0x05 = some .lenMouse ∧
    decodeTableWord 8 0x08 = some .lenKbd ∧ decodeTableWord 16 0xAB57 = none := by decide
/-- F15's byte placed after reset and run by the next step. -/
theorem test_fetchWord :
    nextIs (step (State.reset.withFetchWord 8 0x08)) (fun t => t.pst == .pl && t.len == 8) = true := by decide
theorem test_rejectedFrames :
    decodeFrame [0x57, 0xAB, 0x00, 0x01] = .error .truncated ∧
    decodeFrame [0x57, 0xAB, 0x00, 0x01, 0x08, 0x00] = .error .badLength ∧
    decodeFrame [0x57, 0xAB, 0x00, 0x03, 0x05, 0x00] = .error .badCommand := by decide

/-- W5 and W2: the pseudo-frames stand for the frames with their correct checksums. -/
theorem test_pseudoFrames :
    encode (pseudoMouse 0x0B 0xFB 0x0A 0xFF 0x00) = [0x57, 0xAB, 0x00, 0x01, 0x05, 0x0B, 0xFB, 0x0A, 0xFF, 0x00, 0x17] ∧
    encode (pseudoKbd 0x00 0x00 0x04 0x05 0x00 0x00 0x00 0x00) =
      [0x57, 0xAB, 0x00, 0x02, 0x08, 0x00, 0x00, 0x04, 0x05, 0x00, 0x00, 0x00, 0x00, 0x15] := by decide
/-- R201's codes. -/
theorem test_discardCodes :
    [Discard.framingHdr2, .framingMarker, .framingCommand, .framingLength, .checksumMismatch].map Discard.code =
      [1, 2, 3, 4, 5] ∧ Fault.invariantViolation.code = some 6 := by decide

/-- R65: the frames' lengths in bytes, times BYTE_WIDTH. -/
theorem test_frameBits : byteRowBits = 8 ∧ mouseFrameBits = 11 * 8 ∧ kbdFrameBits = 14 * 8 := by decide
/-- R118's table. -/
theorem test_resyncBounds :
    (at_ .h1 0 0 0).resyncBound = 0 ∧ (at_ .h2 0 0 0).resyncBound = 13 ∧ (at_ .cm 0 0 0).resyncBound = 12 ∧
    (at_ .cmd 0 0 0).resyncBound = 11 ∧ (at_ .len 2 0 0).resyncBound = 10 ∧ (at_ .len 1 0 0).resyncBound = 7 ∧
    (at_ .pl 2 8 3).resyncBound = 6 ∧ (at_ .ck 2 8 8).resyncBound = 1 := by decide

/-! ## One step of each row -/

theorem test_F1 : nextIs (step (at_ .h1 0 0 0 (input := [.byte 0x57]))) (fun t => t.pst == .h2 && t.input == []) = true := by decide
theorem test_F2 : nextIs (step (at_ .h1 0 0 0 (input := [.byte 0xAB]))) (fun t => t.pst == .h1 && t.notes == []) = true := by decide
theorem test_F4 : nextIs (step (at_ .h2 0 0 0 (input := [.byte 0xAB]))) (fun t => t.pst == .cm) = true := by decide
theorem test_F5 : nextIs (step (at_ .h2 0 0 0 (input := [.byte 0x57]))) (fun t => t.pst == .h1 && t.notes == [.framingHdr2]) = true := by decide
theorem test_F7 : nextIs (step (at_ .cm 0 0 0 (input := [.byte 0x00]))) (fun t => t.pst == .cmd) = true := by decide
theorem test_F8 : nextIs (step (at_ .cm 0 0 0 (input := [.byte 0x01]))) (fun t => t.pst == .h1 && t.notes == [.framingMarker]) = true := by decide
theorem test_F9 : nextIs (step (at_ .cmd 0 0 0 (input := [.byte 0x01]))) (fun t => t.pst == .len && t.cmd == 0x01) = true := by decide
theorem test_F10 : nextIs (step (at_ .cmd 0 0 0 (input := [.byte 0x02]))) (fun t => t.pst == .len && t.cmd == 0x02) = true := by decide
theorem test_F11 : nextIs (step (at_ .cmd 0x02 0 0 (input := [.byte 0x00]))) (fun t => t.pst == .h1 && t.cmd == 0x02 && t.notes == [.framingCommand]) = true := by decide
theorem test_F14 : nextIs (step (at_ .len 0x01 8 3 (input := [.byte 0x05]))) (fun t => t.pst == .pl && t.len == 5 && t.idx == 0) = true := by decide
theorem test_F15 : nextIs (step (at_ .len 0x02 5 3 (input := [.byte 0x08]))) (fun t => t.pst == .pl && t.len == 8 && t.idx == 0) = true := by decide
theorem test_F16 : nextIs (step (at_ .len 0x01 5 3 (input := [.byte 0x08]))) (fun t => t.pst == .h1 && t.len == 5 && t.idx == 3 && t.notes == [.framingLength]) = true := by decide
theorem test_F19 : nextIs (step (at_ .pl 0x01 5 0 (input := [.byte 0x57]))) (fun t => t.pst == .pl && t.pay == #v[0x57, 0, 0, 0, 0, 0, 0, 0] && t.idx == 1) = true := by decide
theorem test_F20 : nextIs (step (at_ .pl 0x02 8 6 (input := [.byte 0xAB]))) (fun t => t.pst == .pl && t.pay == #v[0, 0, 0, 0, 0, 0, 0xAB, 0] && t.idx == 7) = true := by decide
theorem test_F21 : nextIs (step (at_ .pl 0x01 5 4 (input := [.byte 0x00]))) (fun t => t.pst == .ck && t.idx == 5) = true := by decide
theorem test_F22 : nextIs (step (at_ .pl 0x02 8 7 (input := [.byte 0xFF]))) (fun t => t.pst == .ck && t.pay == #v[0, 0, 0, 0, 0, 0, 0, 0xFF] && t.idx == 8) = true := by decide
theorem test_F23 : nextIs (step (at_ .ck 0x01 5 5 #v[0x0B, 0xFB, 0x0A, 0xFF, 0, 0, 0, 0] (input := [.byte 0x17])))
    (fun t => t.pst == .h1 && t.events == [.mouse ⟨0b011, 0b01, 0xFB, 0x0A, 0xFF, 0⟩]) = true := by decide
theorem test_F24 : nextIs (step (at_ .ck 0x02 8 8 #v[0, 0, 0x0A, 0x0B, 0x0C, 0x0D, 0x0E, 0x0F] (input := [.byte 0x57])))
    (fun t => t.pst == .h1 && t.snapKey == #v[0x0A, 0x0B, 0x0C, 0x0D, 0x0E, 0x0F]) = true := by decide
theorem test_DS3 : nextIs (step (at_ .ck 0x02 8 8 #v[0, 0, 4, 5, 0, 0, 0, 0] (input := [.byte 0x14])))
    (fun t => t.pst == .h1 && t.notes == [.checksumMismatch] && t.events == [] && t.snapKey == #v[0, 0, 0, 0, 0, 0]) = true := by decide
theorem test_waiting : nextIs (step (at_ .pl 0x02 8 3)) (fun t => t == at_ .pl 0x02 8 3) = true := by decide
theorem test_RS1 : nextIs (step (at_ .pl 0x02 8 2 (keys := #v[4, 0, 0, 0, 0, 0]) (input := [.rst])))
    (fun t => t.pst == .h1 && t.snapKey == #v[0, 0, 0, 0, 0, 0] && t.events == []) = true := by decide

/-! ## Whole frames, each one step -/

theorem test_MS1 : nextIs (stepBurst State.reset [0x57, 0xAB, 0x00, 0x01, 0x05, 0x0B, 0xFB, 0x0A, 0xFF, 0x00, 0x17])
    (fun t => t.events == [.mouse ⟨0b011, 0b01, 0xFB, 0x0A, 0xFF, 0⟩] && t.idx == 5) = true := by decide
theorem test_MS7 : nextIs (stepBurst State.reset [0x57, 0xAB, 0x00, 0x01, 0x05, 0x18, 0x80, 0x7F, 0x01, 0xFF, 0x1F])
    (fun t => t.events == [.mouse ⟨0b000, 0b11, 0x80, 0x7F, 0x01, 0⟩]) = true := by decide
theorem test_W7_frame1 : nextIs (stepBurst State.reset [0x57, 0xAB, 0x00, 0x02, 0x08, 0, 0, 4, 5, 0, 0, 0, 0, 0x15])
    (fun t => t.events == [.keyDown 4, .keyDown 5] && t.snapKey == #v[4, 5, 0, 0, 0, 0] && t.pst == .h1) = true := by decide
theorem test_W7_frame2 : nextIs (stepBurst (at_ .h1 2 8 8 (keys := #v[4, 5, 0, 0, 0, 0]))
      [0x57, 0xAB, 0x00, 0x02, 0x08, 0, 0, 5, 0, 0, 0, 0, 0, 0x11])
    (fun t => t.events == [.keyUp 4] && t.snapKey == #v[5, 0, 0, 0, 0, 0]) = true := by decide
/-- P4: a stray 0x57 loses the frame. -/
theorem test_P4 : nextIs (stepBurst State.reset [0x57, 0x57, 0xAB, 0x00, 0x02, 0x08, 0, 0, 4, 5, 0, 0, 0, 0, 0x15])
    (fun t => t.observed == [] && t.pst == .h1 && t.notes == [.framingHdr2]) = true := by decide

/-! ## The checksum, the diff, the mouse fields -/

theorem test_K5 : validate ⟨2, 8, [0xFF, 0xFF, 0xFF, 0xFF, 0xFF, 0xFF, 0xFF, 0xFF], 0x04⟩ = true := by decide
theorem test_K9 : validate ⟨2, 8, [0x00, 0x33, 0x04, 0, 0, 0, 0, 0], 0x43⟩ = true := by decide
theorem test_K10 : validate ⟨1, 5, [1, 2, 3, 4, 5], 0x17⟩ = true := by decide
theorem test_KB3 : keyDiff [4, 0, 0, 0, 0, 0] [5, 0, 0, 0, 0, 0] = [.keyUp 4, .keyDown 5] := by decide
theorem test_KB6 : keyDiff [6, 5, 4, 0, 0, 0] [0, 0, 0, 0, 0, 0] = [.keyUp 6, .keyUp 5, .keyUp 4] := by decide
theorem test_KB7 : keyDiff [0, 0, 0, 0, 0, 0] [4, 4, 0, 0, 0, 0] = [.keyDown 4] := by decide
theorem test_KB8 : keyDiff [4, 4, 0, 0, 0, 0] [0, 0, 0, 0, 0, 0] = [.keyUp 4] := by decide
theorem test_KB10 : keyDiff [4, 5, 6, 0, 0, 0] [0, 6, 7, 0, 7, 4] = [.keyUp 5, .keyDown 7] := by decide
theorem test_KB12 : keyDiff [4, 0, 0, 0, 0, 0] [0, 0, 0, 0, 0, 4] = [] := by decide
theorem test_MS4 : mouseReport 0xE0 0 0 0 0 = ⟨0b000, 0b00, 0, 0, 0, 0⟩ := by decide
theorem test_MS5 : mouseReport 0x10 0 0 0 0 = ⟨0b000, 0b10, 0, 0, 0, 0⟩ := by decide
theorem test_sint8 : sint8 0xFB = -5 ∧ sint8 0x7F = 127 ∧ sint8 0x80 = -128 := by decide

/-! ## Witnesses: the hypotheses of each statement are met by a concrete state and operands -/

/-- A keyboard frame's CK state: KB3's new report, checksum 0x11, one key held. -/
def kbdCk : State := at_ .ck 0x02 8 8 #v[0, 0, 5, 0, 0, 0, 0, 0] #v[4, 0, 0, 0, 0, 0]
/-- A mouse frame's CK state: W5's payload, checksum 0x17. -/
def mouseCk : State := at_ .ck 0x01 5 5 #v[0x0B, 0xFB, 0x0A, 0xFF, 0, 0, 0, 0]
/-- A state whose latest step emitted two events. -/
def delivering (input : List Input) : State := { at_ .h1 2 8 8 (input := input) with events := [.keyDown 4, .keyDown 5] }

theorem witness_ResetLeavesHuntStateAndEmptySnapshot : (delivering [.rst]).input = .rst :: [] := by decide
theorem witness_ResetDuringDeliveryLeavesAnyPrefix :
    (delivering [.rstDelivering 1]).input = .rstDelivering 1 :: [] ∧ [Event.keyDown 4] <+: (delivering []).events := by decide
theorem witness_SinkThatNeverAcceptsStopsTheRun :
    (delivering [.sinkStall]).input = .sinkStall :: [] ∧ (delivering []).events ≠ [] ∧
    faultIs (step (delivering [.sinkStall])) .sinkStalled = true ∧ (at_ .h1 0 0 0 (input := [.sinkStall])).events = [] := by decide
theorem witness_StepRunsTheDecodedInstruction :
    (decodeByte (at_ .h1 0 0 0 (input := [.byte 0x57])).ctx 0x57).toOption = some .h1Hdr1 ∧
    decodeFrame [0x57, 0xAB, 0, 1, 5, 0, 0, 0, 0, 0, 8] = .ok (.frameMouse 0 0 0 0 0 8, []) := by decide
theorem witness_OnlyBytesOrResetMoveTheFramer :
    (at_ .pl 2 8 3).input = [] ∧ nextIs (step (at_ .h1 0 0 0 (input := [.byte 0x57]))) (fun t => t.pst != .h1) = true := by decide
theorem witness_EveryByteIsConsumedExactlyOnce :
    nextIs (step (at_ .h1 0 0 0 (input := [.byte 0x57, .byte 0xAB]))) (fun t => t.input == [.byte 0xAB]) = true := by decide
theorem witness_EveryByteMatchesExactlyOneRow : (7#4).toNat < (8#8).toNat := by decide
theorem witness_ByteRowsDecodeTheirEncoding :
    Instr.appliesIn ⟨.len, 0x01, 0, 0⟩ (.lenErr 0x08) = true ∧ (Instr.lenErr 0x08).isByteRow = true ∧
    dec .len 0x01 0 0 0x08 = some (.lenErr 0x08) := by decide
theorem witness_FramesDecodeTheirEncoding :
    (Instr.frameKbd 0 0 4 5 0 0 0 0 0x15).isByteRow = false ∧
    decodeFrame [0x57, 0xAB, 0, 1, 5, 0, 0, 0, 0, 0, 8, 0x57] = .ok (.frameMouse 0 0 0 0 0 8, [0x57]) := by decide
theorem witness_BytesThatAreNoFrameAreRejectedByPosition :
    9 ≤ (List.replicate 9 (0 : Byte)).length ∧ (0x58 : Byte) ≠ 0x57 ∧ (0x57 : Byte) ≠ 0xAB ∧ (0x01 : Byte) ≠ 0x00 ∧
    ((0x03 : Byte) ≠ 0x01 ∧ (0x03 : Byte) ≠ 0x02) ∧ (((0x01 : Byte) = 0x01 ∧ (0x08 : Byte) ≠ 0x05) ∨ False) := by decide
theorem witness_PlacedTableWordRunsInTheNextStep : decodeTableWord 8 0x57 = some .h1Hdr1 := by decide
theorem witness_HeaderAndMarkerRowsAdvanceTheFramer :
    (at_ .h1 0 0 0).pst = .h1 ∧ (at_ .h2 0 0 0).pst = .h2 ∧ (at_ .cm 0 0 0).pst = .cm := by decide
theorem witness_OtherBytesLeaveTheFramerHunting : (at_ .h1 0 0 0).pst = .h1 ∧ (0x56 : Byte) ≠ 0x57 := by decide
theorem witness_FramingErrorsReturnToHunting :
    ((at_ .h2 0 0 0).pst = .h2 ∧ (0x57 : Byte) ≠ 0xAB) ∧ ((at_ .cm 0 0 0).pst = .cm ∧ (0x01 : Byte) ≠ 0x00) ∧
    ((at_ .cmd 0 0 0).pst = .cmd ∧ (0x03 : Byte) ≠ 0x01 ∧ (0x03 : Byte) ≠ 0x02) ∧
    ((at_ .len 2 0 0).pst = .len ∧ ¬((at_ .len 2 0 0).cmd = 0x01 ∧ (0x05 : Byte) = 0x05) ∧
      ¬((at_ .len 2 0 0).cmd = 0x02 ∧ (0x05 : Byte) = 0x08)) := by decide
theorem witness_CommandRowsRecordTheCode : (at_ .cmd 0 0 0).pst = .cmd := by decide
theorem witness_LengthRowsOpenThePayload :
    (at_ .len 1 0 0).pst = .len ∧ (at_ .len 1 0 0).cmd = 0x01 ∧ (at_ .len 2 0 0).cmd = 0x02 := by decide
theorem witness_PayloadRowsStoreTheByte :
    (at_ .pl 2 8 6).idx.toNat + 1 < (at_ .pl 2 8 6).len.toNat ∧ (at_ .pl 2 8 7).idx.toNat + 1 = (at_ .pl 2 8 7).len.toNat ∧
    (at_ .pl 2 8 7).idx.toNat < 8 ∧ (at_ .pl 2 8 7).pst = .pl := by decide
theorem witness_PayloadWritePastTheBufferFaults : 8 ≤ (at_ .pl 2 8 8).idx.toNat := by decide
theorem witness_ChecksumByteReturnsTheFramerToHunting : mouseCk.Inv ∧ kbdCk.Inv ∧ kbdCk.pst = .ck := by decide
theorem witness_ChecksumMismatchDiscardsThePacket :
    kbdCk.len.toNat ≤ 8 ∧ (0x57 + 0xAB + 0x00 + kbdCk.cmd.toNat + kbdCk.len.toNat +
      ((kbdCk.pay.toList.take kbdCk.len.toNat).map BitVec.toNat).sum) % 256 ≠ (0x10 : Byte).toNat := by decide
theorem witness_ValidMousePacketEmitsOneReport :
    mouseCk.cmd = 0x01 ∧ mouseCk.len = 5 ∧ (0x08 + mouseCk.pay[0].toNat + mouseCk.pay[1].toNat + mouseCk.pay[2].toNat +
      mouseCk.pay[3].toNat + mouseCk.pay[4].toNat) % 256 = (0x17 : Byte).toNat := by decide
theorem witness_ValidKeyboardPacketDiffsAndReplacesTheSnapshot :
    kbdCk.cmd = 0x02 ∧ kbdCk.len = 8 ∧ (0x0C + kbdCk.pay[0].toNat + kbdCk.pay[1].toNat + kbdCk.pay[2].toNat +
      kbdCk.pay[3].toNat + kbdCk.pay[4].toNat + kbdCk.pay[5].toNat + kbdCk.pay[6].toNat + kbdCk.pay[7].toNat) % 256 =
      (0x11 : Byte).toNat := by decide
theorem witness_UnknownCommandAtDispatchFaults :
    faultIs (exec (.ckByte 0x05) (at_ .ck 3 0 0)) .invariantViolation = true ∧ (at_ .ck 3 0 0).len.toNat ≤ 8 ∧
    (0x57 + 0xAB + 0x00 + 3 + 0 + 0) % 256 = (0x05 : Byte).toNat ∧ kbdCk.Inv := by decide
theorem witness_SingleBitFlipsAreDetected :
    validate ⟨2, 8, [0, 0, 4, 5, 0, 0, 0, 0], 0x15⟩ = true ∧ 7 < [0, 0, 4, 5, 0, 0, 0, (0 : Byte)].length ∧
    validate ⟨2, 8, [0, 0, 4, 5, 0, 0, 0, 0x80], 0x15⟩ = false := by decide
theorem witness_CompensatedChangesAreNotDetected :
    validate ⟨2, 8, [0, 0, 4, 5, 0, 0, 0, 0], 0x15⟩ = true ∧ [0, 0, 5, 4, 0, 0, 0, (0 : Byte)].Perm [0, 0, 4, 5, 0, 0, 0, 0] ∧
    ([0, 0, 4, 6, 0, 0, 0, (0 : Byte)].map BitVec.toNat).sum % 256 =
      (([0, 0, 4, 5, 0, 0, 0, (0 : Byte)].map BitVec.toNat).sum + (1 : Byte).toNat) % 256 := by decide
theorem witness_MouseFrameIsRecognizedFromHunting :
    State.reset.pst = .h1 ∧ (0x17 : Byte) = 0x08 + 0x0B + 0xFB + 0x0A + 0xFF + 0x00 := by decide
theorem witness_KeyboardFrameIsRecognizedFromHunting :
    State.reset.pst = .h1 ∧ (0x15 : Byte) = 0x0C + 0 + 0 + 4 + 5 + 0 + 0 + 0 + 0 := by decide
theorem witness_FrameArrivingMidHeaderIsLost :
    (Instr.frameMouse 0x57 0x57 0xAB 0 0 0x61).isByteRow = false ∧ (at_ .h2 0 0 0).pst = .h2 := by decide
theorem witness_FramesCompleteInEveryReachableState :
    (Instr.frameMouse 0 0 0 0 0 8).isByteRow = false ∧ (at_ .pl 2 8 7).Inv := by decide
theorem witness_BurstIsItsBytesInSequence : (at_ .h1 0 0 0 (input := [.burst [0x57, 0xAB]])).input = .burst [0x57, 0xAB] :: [] := by decide
theorem witness_OpcodeTableAgreesWithTheStateMachine : (at_ .cm 0 0 0 (input := [.byte 0])).input = .byte 0 :: [] := by decide
theorem witness_ReleasesComeBeforePresses :
    kbdCk.cmd = 0x02 ∧
    nextIs (step { kbdCk with input := [.byte 0x11] }) (fun t => t.events == [.keyUp 4, .keyDown 5]) = true := by decide
theorem witness_ReleasesComeBeforePresses_held : inKeys 4 [4, 5, 0, 0, 0, 0] ∧ inKeys 4 [0, 4, 0, 0, 0, 0] := by
  unfold inKeys; decide
theorem witness_KeyboardEventCountIsBounded :
    (keyDiff [4, 5, 6, 7, 8, 9] [0x0A, 0x0B, 0x0C, 0x0D, 0x0E, 0x0F]).length = 12 ∧
    [4, 5, 6, 7, 8, (9 : Byte)].Nodup ∧ [0x0A, 0x0B, 0x0C, 0x0D, 0x0E, (0x0F : Byte)].Nodup ∧
    (0x00 : Byte) ∉ [4, 5, 6, 7, 8, 9] ++ [0x0A, 0x0B, 0x0C, 0x0D, 0x0E, 0x0F] ∧
    ∀ k ∈ [4, 5, 6, 7, 8, (9 : Byte)], k ∉ [0x0A, 0x0B, 0x0C, 0x0D, 0x0E, (0x0F : Byte)] := by decide
theorem witness_RepeatedKeySetEmitsNothing :
    State.reset.pst = .h1 ∧ ∀ k, inKeys k [5, 4, 0, 0, 4, 0] ↔ inKeys k [4, 5, 0, 0, 0, 0] := by
  refine ⟨by decide, fun k => ?_⟩; simp [inKeys]; tauto
theorem witness_ModifierAndReservedByteEmitNothing :
    (at_ .h1 0 0 0 (keys := #v[5, 4, 0, 0, 0, 0])).pst = .h1 ∧
    (at_ .h1 0 0 0 (keys := #v[5, 4, 0, 0, 0, 0])).snapKey = #v[5, 4, 0, 0, 0, 0] := by decide
theorem witness_OnlyFirstOccurrencesOfTheSnapshotMatter :
    firstKeys [0, 4, 4, 5, 0, 0] = firstKeys [4, 5, 0, 0, 5, 4] ∧ firstKeys [0, 4, 4, 5, 0, 0] = [4, 5] := by decide
theorem witness_SinkViewFollowsTheReports :
    ({ kbdCk with snapKey := Vector.replicate 6 0, input := [.byte 0x11] } : State).SinkInStep ∧
    nextIs (step { kbdCk with snapKey := Vector.replicate 6 0, input := [.byte 0x11] })
      (fun t => t.events == [.keyDown 5]) = true := by
  refine ⟨fun k => ?_, by decide⟩
  simp [State.observed, kbdCk, at_, State.reset, alternates, heldAfter, inKeys]
theorem witness_MouseReportFieldsFollowThePayload : (0xFF : Byte).toNat % 32 = (0x1F : Byte).toNat % 32 := by decide
theorem witness_EveryStepKeepsTheReachabilityInvariant :
    (at_ .pl 2 8 7 (input := [.byte 0])).Inv ∧ nextIs (step (at_ .pl 2 8 7 (input := [.byte 0]))) (fun t => t.pst == .ck) = true := by decide
theorem witness_NoByteSequenceStopsTheBlock : mouseCk.Inv := by decide
theorem witness_OnlyARefusingSinkStopsTheBlock : (at_ .ck 2 8 8 (input := [.byte 0])).Inv ∧ (at_ .ck 2 8 8 (input := [.byte 0])).sinkServes := by decide
theorem witness_StaleRegistersAreUnobservable :
    (at_ .h1 1 5 5).Inv ∧ (at_ .h1 2 8 8 #v[1, 2, 3, 4, 5, 6, 7, 8]).Inv ∧
    (at_ .h1 1 5 5).Agrees (at_ .h1 2 8 8 #v[1, 2, 3, 4, 5, 6, 7, 8]) := by
  refine ⟨by decide, by decide, ?_⟩
  constructor <;> simp [at_]
/-- In PL the bytes before `idx` agree and the one after them differs. -/
theorem witness_StaleRegistersAreUnobservable_payload :
    (at_ .pl 1 5 2 #v[1, 2, 3, 0, 0, 0, 0, 0]).Agrees (at_ .pl 1 5 2 #v[1, 2, 9, 0, 0, 0, 0, 0]) := by
  constructor <;> simp [at_]
theorem witness_ResynchronizationIsBounded :
    (at_ .len 2 0 0).Inv ∧ (at_ .len 2 0 0).resyncBound = 10 ∧ (at_ .h2 0 0 0).resyncBound = 13 ∧ (at_ .h2 0 0 0).Inv ∧
    (0x57 : Byte) ∉ List.replicate 13 (0x11 : Byte) ∧ (at_ .h2 0 0 0).resyncBound ≤ (List.replicate 13 (0x11 : Byte)).length ∧
    (at_ .h2 0 0 0).pst ≠ .h1 := by decide
theorem witness_EventsComeOnlyFromOnePacketAtTheChecksumByte :
    nextIs (step { mouseCk with input := [.byte 0x17] }) (fun t => t.events != []) = true ∧
    nextIs (step { kbdCk with input := [.byte 0x11] }) (fun t => t.events != []) = true := by decide
theorem witness_PacketsCompleteAtMostOnceInElevenBytes :
    State.reset.pst = .h1 ∧ [0x57, 0xAB, 0, 1, 5, 0, 0, 0, 0, (0 : Byte)].length ≤ 10 := by decide
theorem witness_SnapshotIsWrittenOnlyByAValidKeyboardPacket :
    nextIs (step { kbdCk with input := [.byte 0x11] }) (fun t => t.snapKey != kbdCk.snapKey) = true := by decide
theorem witness_AtMostOneDiscardPerByte :
    nextIs (step { kbdCk with input := [.byte 0x12] }) (fun t => t.notes == [.checksumMismatch]) = true := by decide
theorem witness_ObservedEventsOnlyGrow :
    nextIs (step (delivering [.rst])) (fun t => t.observed == [.keyDown 4, .keyDown 5]) = true := by decide
theorem witness_KeyEventsNeverCarryTheSentinel :
    (∀ k p, (k, p) ∈ (delivering [.byte 0]).observed.filterMap Event.onKev → k ≠ 0x00) ∧
    nextIs (step (delivering [.byte 0])) (fun t => t.observed == [.keyDown 4, .keyDown 5]) = true := by
  refine ⟨fun k p h => ?_, by decide⟩
  simp [delivering, at_, State.reset, State.observed, Event.onKev] at h
  rcases h with ⟨rfl, -⟩ | ⟨rfl, -⟩ <;> decide

end Sys2Proof.Tests
end

section
/-! The step runs the decoded instruction (O4): a byte runs its row, and a whole frame is its own bytes. -/

namespace Sys2Proof.Machine

/-- The frame decoder gives only frame rows, and the bytes it has read are the frame's encoding (R61 to R65). -/
theorem decodeFrame_ok {bs rest : List Byte} {i : Instr} (h : decodeFrame bs = .ok (i, rest)) :
    i.isByteRow = false ∧ bs = encode i ++ rest := by
  unfold decodeFrame at h
  split at h
  · simp only [ite_not] at h
    split_ifs at h
    · obtain ⟨bt, dx, dy, wh, rsv, c, rfl, rfl⟩ := decodeMouseBody_ok h
      subst_vars; exact ⟨rfl, rfl⟩
    · obtain ⟨md, rsv, k0, k1, k2, k3, k4, k5, c, rfl, rfl⟩ := decodeKbdBody_ok h
      subst_vars; exact ⟨rfl, rfl⟩
  · cases h

theorem decodeWholeFrame_eq_some {bs : List Byte} {i : Instr} :
    decodeWholeFrame bs = some i ↔ decodeFrame bs = .ok (i, []) := by
  unfold decodeWholeFrame
  split
  · rename_i h; simp [h]
  · rename_i h; exact ⟨nofun, fun hi => (h i hi).elim⟩

theorem takeByte_of_decode {s : State} {b : Byte} {i : Instr} (h : decodeByte s.ctx b = .ok i) :
    takeByte b s = exec i s := by
  unfold takeByte; rw [h]

theorem takeBurst_of_decode {bs : List Byte} {i : Instr} (h : decodeFrame bs = .ok (i, [])) (s : State) :
    takeBurst bs s = exec i s := by
  unfold takeBurst; rw [decodeWholeFrame_eq_some.2 h]

/-- A frame row is its bytes in arrival order (R61, R78). -/
theorem exec_frame {i : Instr} (h : i.isByteRow = false) (s : State) : exec i s = feedBytes (encode i) s := by
  cases i with
  | frameMouse => rfl
  | frameKbd => rfl
  | _ => cases h

/-- A burst is its bytes in arrival order, whether it is run as a frame row or not (log entry 5). -/
theorem takeBurst_eq_feedBytes (bs : List Byte) (s : State) : takeBurst bs s = feedBytes bs s := by
  cases h : decodeWholeFrame bs with
  | none => unfold takeBurst; rw [h]
  | some i =>
    have hd := decodeWholeFrame_eq_some.1 h
    obtain ⟨hi, hbs⟩ := decodeFrame_ok hd
    rw [takeBurst_of_decode hd, exec_frame hi, hbs, List.append_nil]

/-- The opcode table, read and run row by row, is the state machine selected by `pst` (R78, R100). -/
theorem takeByte_eq_feedByte (b : Byte) (s : State) : takeByte b s = feedByte b s := by
  unfold takeByte feedByte
  cases hp : s.pst with
  | h1 => rw [decodeByte_h1 _ _ hp]; exact apply_ite (exec · s) _ _ _
  | h2 => rw [decodeByte_h2 _ _ hp]; exact apply_ite (exec · s) _ _ _
  | cm => rw [decodeByte_cm _ _ hp]; exact apply_ite (exec · s) _ _ _
  | cmd => rw [decodeByte_cmd _ _ hp]; simp only [apply_ite (exec · s)]; rfl
  | len => rw [decodeByte_len _ _ hp]; simp only [apply_ite (exec · s)]; rfl
  | pl =>
    rw [decodeByte_pl _ _ hp, State.ctx_idx, State.ctx_len]
    by_cases hmore : s.idx.toNat + 1 < s.len.toNat
    · simp only [if_pos hmore]; rfl
    · by_cases hlast : s.idx.toNat + 1 = s.len.toNat
      · simp only [if_neg hmore, if_pos hlast]; rfl
      · simp only [if_neg hmore, if_neg hlast]
  | ck => rw [decodeByte_ck _ _ hp]; rfl

/-- Settles O4: the step takes the input off, and taking it runs what it decodes to. -/
theorem stepRunsTheDecodedInstruction : Obligations.StepRunsTheDecodedInstruction := by
  refine ⟨fun s b rest i hin hd => ?_, fun s bs rest i hin hd => ?_⟩
  · rw [step_input hin]; exact takeByte_of_decode hd
  · rw [step_input hin]; exact takeBurst_of_decode hd _

end Sys2Proof.Machine
end

section
/-! A burst is its bytes in sequence (O33). No rule of the framer reads or writes the inputs still to come, so a burst
and its bytes sent one by one leave the same state. -/

namespace Sys2Proof.Machine

/-- A payload byte is stored alike whatever inputs are still to come. -/
theorem State.appendPayload_withInput (s : State) (b : Byte) (p : ParserState) (l : List Input) :
    State.appendPayload { s with input := l } b p =
      andThen (s.appendPayload b p) (fun t => .next { t with input := l }) := by
  unfold State.appendPayload
  split <;> rfl

theorem dispatch_withInput (p : Packet) (s : State) (l : List Input) :
    dispatch p { s with input := l } = andThen (dispatch p s) (fun t => .next { t with input := l }) := by
  unfold dispatch
  split_ifs
  · cases kbdOperands p.payload <;> rfl
  · cases mouseOperands p.payload <;> rfl
  · rfl

theorem completePacket_withInput (p : Packet) (s : State) (l : List Input) :
    completePacket p { s with input := l } = andThen (completePacket p s) (fun t => .next { t with input := l }) := by
  unfold completePacket
  split_ifs
  · exact dispatch_withInput p s l
  · rfl

theorem execCkByte_withInput (b : Byte) (s : State) (l : List Input) :
    execCkByte b { s with input := l } = andThen (execCkByte b s) (fun t => .next { t with input := l }) := by
  have hp : State.packet? { s with input := l } b = s.packet? b := rfl
  unfold execCkByte
  rw [hp]
  cases s.packet? b with
  | none => rfl
  | some p => exact completePacket_withInput p (s.beginStep.setPst .h1) l

/-- One byte does the same whatever inputs are still to come, and leaves them alone. -/
theorem feedByte_withInput (b : Byte) (s : State) (l : List Input) :
    feedByte b { s with input := l } = andThen (feedByte b s) (fun t => .next { t with input := l }) := by
  unfold feedByte
  cases s.pst with
  | h1 | h2 | cm | cmd | len => dsimp only; split_ifs <;> rfl
  | pl =>
    dsimp only
    split_ifs
    · exact State.appendPayload_withInput s b .pl l
    · exact State.appendPayload_withInput s b .ck l
    · rfl
  | ck => exact execCkByte_withInput b s l

/-- A byte's step leaves the inputs after it (R120). -/
theorem feedByte_input {s t : State} {b : Byte} (h : feedByte b s = .next t) : t.input = s.input := by
  have hs : feedByte b s = andThen (feedByte b s) (fun u => .next { u with input := s.input }) :=
    feedByte_withInput b s s.input
  rw [h, andThen_next] at hs
  injection hs with ht
  rw [ht]

/-- A run of byte inputs is its bytes fed in arrival order (R41, R120). -/
theorem runBytes_eq_feedBytes (bs : List Byte) (s : State) : runBytes bs s = feedBytes bs s := by
  induction bs generalizing s with
  | nil => rfl
  | cons b bs ih =>
    rw [runBytes_cons, takeByte_eq_feedByte, feedByte_withInput, andThen_assoc, feedBytes]
    cases h : feedByte b s with
    | next t =>
      have hrun : runBytes bs t = runSteps bs.length { t with input := bs.map .byte ++ s.input } := by
        unfold runBytes; rw [feedByte_input h]
      exact hrun.symm.trans (ih t)
    | fault r => rfl
    | refused r => rfl

/-- Settles O33: both sides are the bytes fed in arrival order. -/
theorem burstIsItsBytesInSequence : Obligations.BurstIsItsBytesInSequence := by
  intro s bs rest hin
  calc step s = takeBurst bs { s with input := rest } := step_input hin
    _ = feedBytes bs { s with input := rest } := takeBurst_eq_feedBytes bs _
    _ = runBytes bs { s with input := rest } := (runBytes_eq_feedBytes bs _).symm

end Sys2Proof.Machine
end

section
/-! Everything one step can do, by the input it takes: `StepResult`, with one constructor per input. Then the observed
event sequence, which only grows (O54). -/

namespace Sys2Proof.Machine

/-- What one step can do to a state `s`, when it gives a next state. -/
inductive StepResult (s : State) : State → Prop where
  /-- R121, R212: no input, and the block waits. -/
  | waiting (h : s.input = []) : StepResult s s
  /-- R7, R140: one byte. -/
  | byte (b : Byte) (rest : List Input) {t : State} (h : s.input = .byte b :: rest)
      (hb : ByteStep { s with input := rest } b t) : StepResult s t
  /-- A burst is its bytes in sequence (log entry 5). -/
  | burst (bs : List Byte) (rest : List Input) {t : State} (h : s.input = .burst bs :: rest)
      (hbs : feedBytes bs { s with input := rest } = .next t) : StepResult s t
  /-- R220: a reset after the latest step's events have all been accepted. -/
  | rst (rest : List Input) (h : s.input = .rst :: rest) :
      StepResult s (State.applyReset { s with input := rest } s.events.length)
  /-- R221: a reset during delivery. -/
  | rstDelivering (k : Nat) (rest : List Input) (h : s.input = .rstDelivering k :: rest) :
      StepResult s (State.applyReset { s with input := rest } k)
  /-- R213: a sink that refuses for ever, where it is offered nothing. -/
  | sinkStall (rest : List Input) (h : s.input = .sinkStall :: rest) (he : s.events = []) :
      StepResult s { s with input := rest }

/-- A step, when it gives a next state, does one of the things `StepResult` lists. -/
theorem step_next {s t : State} (h : step s = .next t) : StepResult s t := by
  cases hin : s.input with
  | nil => rw [step_waiting hin] at h; cases h; exact .waiting hin
  | cons i rest =>
    rw [step_input hin] at h
    cases i with
    | byte b => exact .byte b rest hin (feedByte_next (takeByte_eq_feedByte b _ ▸ h))
    | burst bs => exact .burst bs rest hin (takeBurst_eq_feedBytes bs _ ▸ h)
    | rst => cases h; exact .rst rest hin
    | rstDelivering k => cases h; exact .rstDelivering k rest hin
    | sinkStall =>
      dsimp only [takeInput, takeSinkStall] at h
      split at h
      · cases h; exact .sinkStall rest hin ‹_›
      · cases h

/-- A byte's own events come after all that was observed before (R46, R224). -/
theorem ByteStep.observed_eq {s t : State} {b : Byte} (h : ByteStep s b t) : t.observed = s.observed ++ t.events := by
  cases h <;> rfl

theorem feedBytes_observed_prefix {bs : List Byte} {s t : State} (h : feedBytes bs s = .next t) :
    s.observed <+: t.observed :=
  feedBytes_keeps (P := fun u => s.observed <+: u.observed)
    (fun _ _ _ hu hb => hu.trans ⟨_, (feedByte_next hb).observed_eq.symm⟩) bs (List.prefix_refl _) h

/-- Settles O54: a byte appends its events, and a reset between steps keeps all of them. -/
theorem observedEventsOnlyGrow : Obligations.ObservedEventsOnlyGrow := by
  intro s t hstep hcut
  cases step_next hstep with
  | waiting => exact List.prefix_refl _
  | byte _ _ _ hb => exact ⟨_, hb.observed_eq.symm⟩
  | burst _ rest _ hbs => exact feedBytes_observed_prefix (s := { s with input := rest }) hbs
  | rst => simp [State.observed]
  | rstDelivering k rest hin => exact absurd (by rw [hin]; rfl) (hcut k)
  | sinkStall => exact List.prefix_refl _

end Sys2Proof.Machine
end

section
/-! The key events never carry the sentinel (O55): a law of the observed events that every step keeps. -/

namespace Sys2Proof.Machine

/-- No event of the list carries the code 0x00 on `kev` (R74). -/
def NoSentinelOnKev (es : List Event) : Prop := ∀ k p, (k, p) ∈ es.filterMap Event.onKev → k ≠ Config.noKey

@[simp] theorem noSentinelOnKev_nil : NoSentinelOnKev [] := by
  intro k p h; cases h

@[simp] theorem noSentinelOnKev_append {xs ys : List Event} :
    NoSentinelOnKev (xs ++ ys) ↔ NoSentinelOnKev xs ∧ NoSentinelOnKev ys := by
  simp only [NoSentinelOnKev, List.filterMap_append, List.mem_append, or_imp, forall_and]

theorem noSentinelOnKev_mouse (r : MouseReport) : NoSentinelOnKev [.mouse r] := by
  intro k p h; cases h

theorem NoSentinelOnKev.take {es : List Event} (h : NoSentinelOnKev es) (n : Nat) : NoSentinelOnKev (es.take n) := by
  rw [← List.take_append_drop n es, noSentinelOnKev_append] at h
  exact h.1

/-- The loop of R152 and R153 skips the sentinel, whichever key event it sends for a key. -/
theorem noSentinelOnKev_keysOnlyIn (other slots : List Byte) {f : Byte → Event} {pressed : Bool}
    (hf : ∀ k, (f k).onKev = some (k, pressed)) : NoSentinelOnKev ((keysOnlyIn other [] slots).map f) := by
  intro k p h
  simp only [List.mem_filterMap, List.mem_map, exists_exists_and_eq_and, hf] at h
  obtain ⟨j, hj, heq⟩ := h
  cases heq
  exact ((mem_keysOnlyIn other [] slots k).1 hj).1

theorem noSentinelOnKev_keyDiff (old new : List Byte) : NoSentinelOnKev (keyDiff old new) :=
  noSentinelOnKev_append.2
    ⟨noSentinelOnKev_keysOnlyIn new old fun _ => rfl, noSentinelOnKev_keysOnlyIn old new fun _ => rfl⟩

/-- The events of one byte never carry the sentinel: only a keyboard packet sends key events, and those are its diff. -/
theorem ByteStep.noSentinel_events {s t : State} {b : Byte} (h : ByteStep s b t) : NoSentinelOnKev t.events := by
  cases h with
  | keyboard => exact noSentinelOnKev_keyDiff _ _
  | mouse => exact noSentinelOnKev_mouse _
  | _ => exact noSentinelOnKev_nil

theorem ByteStep.keeps_noSentinel {s t : State} {b : Byte} (h : ByteStep s b t) (hs : NoSentinelOnKev s.observed) :
    NoSentinelOnKev t.observed := by
  rw [h.observed_eq, noSentinelOnKev_append]
  exact ⟨hs, h.noSentinel_events⟩

theorem feedBytes_keeps_noSentinel {bs : List Byte} {s t : State} (hs : NoSentinelOnKev s.observed)
    (h : feedBytes bs s = .next t) : NoSentinelOnKev t.observed :=
  feedBytes_keeps (P := fun u => NoSentinelOnKev u.observed)
    (fun _ _ _ hu hb => (feedByte_next hb).keeps_noSentinel hu) bs hs h

theorem State.applyReset_keeps_noSentinel {s : State} (k : Nat) (hs : NoSentinelOnKev s.observed) :
    NoSentinelOnKev (s.applyReset k).observed := by
  obtain ⟨hdelivered, hevents⟩ := noSentinelOnKev_append.1 hs
  simpa [State.observed] using ⟨hdelivered, hevents.take k⟩

theorem step_keeps_noSentinel {s t : State} (hs : NoSentinelOnKev s.observed) (h : step s = .next t) :
    NoSentinelOnKev t.observed := by
  cases step_next h with
  | waiting => exact hs
  | byte _ _ _ hb => exact hb.keeps_noSentinel hs
  | burst _ rest _ hbs => exact feedBytes_keeps_noSentinel (s := { s with input := rest }) hs hbs
  | rst => exact State.applyReset_keeps_noSentinel _ hs
  | rstDelivering => exact State.applyReset_keeps_noSentinel _ hs
  | sinkStall => exact hs

/-- Settles O55: the observed events meet `NoSentinelOnKev` at reset, and every step keeps it. -/
theorem keyEventsNeverCarryTheSentinel : Obligations.KeyEventsNeverCarryTheSentinel :=
  ⟨fun _ => ⟨rfl, rfl⟩, noSentinelOnKev_nil, fun _ _ => step_keeps_noSentinel⟩

end Sys2Proof.Machine
end

section
/-! The invariant of R29 (O44, O45): it holds at reset, and every input keeps it. -/

namespace Sys2Proof.Machine

/-- The framer states in which no rule reads `cmd`, `len`, `idx` or `pay`: all but LEN, PL and CK (R29). -/
abbrev ReadsNoRegister (p : ParserState) : Prop := p ≠ .len ∧ p ≠ .pl ∧ p ≠ .ck

theorem inv_of_readsNoRegister {s : State} (h : ReadsNoRegister s.pst) : s.Inv := by
  obtain ⟨hlen, hpl, hck⟩ := h
  exact ⟨fun hp => absurd hp hlen, fun hp => absurd hp hpl, fun hp => absurd hp hck⟩

theorem inv_of_h1 {s : State} (hp : s.pst = .h1) : s.Inv := inv_of_readsNoRegister (by rw [hp]; decide)

/-- Settles O44: the framer hunts at reset, and there the invariant asks nothing of the registers. -/
theorem reachabilityInvariantHoldsAtReset : Obligations.ReachabilityInvariantHoldsAtReset :=
  inv_of_h1 rfl

theorem inv_of_len {s : State} (hp : s.pst = .len) (hc : s.cmd = Config.cmdMouse ∨ s.cmd = Config.cmdKbd) : s.Inv :=
  ⟨fun _ => hc, by simp [hp], by simp [hp]⟩

theorem inv_of_pl {s : State} (hp : s.pst = .pl) (hf : s.FrameShape) (hi : s.idx.toNat < s.len.toNat) : s.Inv :=
  ⟨by simp [hp], fun _ => ⟨hf, hi⟩, by simp [hp]⟩

theorem inv_of_ck {s : State} (hp : s.pst = .ck) (hf : s.FrameShape) (hi : s.idx.toNat = s.len.toNat) : s.Inv :=
  ⟨by simp [hp], by simp [hp], fun _ => ⟨hf, hi⟩⟩

/-- One byte keeps the invariant: LEN is entered with a command code, PL with the length the code mandates and nothing
read, and PL is left for CK when the payload is full; every other byte ends where no register is read. -/
theorem ByteStep.keeps_inv {s t : State} {b : Byte} (h : ByteStep s b t) (hs : s.Inv) : t.Inv := by
  obtain ⟨-, hpl, -⟩ := hs
  cases h with
  | move p h =>
    have hp : ReadsNoRegister p := by
      rcases h with ⟨-, -, rfl⟩ | ⟨-, -, rfl⟩ | ⟨-, -, rfl⟩ | ⟨-, -, rfl⟩ <;> decide
    exact inv_of_readsNoRegister hp
  | command _ hb => exact inv_of_len rfl hb
  | length _ hb =>
    refine inv_of_pl rfl hb ?_
    rcases hb with ⟨-, rfl⟩ | ⟨-, rfl⟩ <;> simp
  | payload p hp hi h =>
    obtain ⟨hf, -⟩ := hpl hp
    rcases h with ⟨hlt, rfl⟩ | ⟨heq, rfl⟩
    · exact inv_of_pl rfl hf ((idx_succ hi).trans_lt hlt)
    · exact inv_of_ck rfl hf ((idx_succ hi).trans heq)
  | framing | mismatch | keyboard | mouse => exact inv_of_h1 rfl

theorem feedByte_keeps_inv (s t : State) (b : Byte) (hs : s.Inv) (h : feedByte b s = .next t) : t.Inv :=
  (feedByte_next h).keeps_inv hs

/-- Settles O45: a byte keeps the invariant, a burst is its bytes, and a reset leaves the framer hunting, where the
free values it draws are not read. -/
theorem everyStepKeepsTheReachabilityInvariant : Obligations.EveryStepKeepsTheReachabilityInvariant := by
  intro s t hs hstep
  cases step_next hstep with
  | waiting | sinkStall => exact hs
  | byte _ _ _ hb => exact hb.keeps_inv hs
  | burst bs rest _ hbs => exact feedBytes_keeps feedByte_keeps_inv bs (s := { s with input := rest }) hs hbs
  | rst | rstDelivering => exact inv_of_h1 rfl

end Sys2Proof.Machine
end

section
/-! Left-over registers are unobservable (O48): two reachable states that agree step alike, operation by operation. -/

namespace Sys2Proof.Machine

/-- Two outcomes that no port tells apart: next states that agree, or the same stop. -/
inductive OutcomesAgree : Host.Outcome State Fault Refusal → Host.Outcome State Fault Refusal → Prop where
  | next {s t : State} (h : s.Agrees t) : OutcomesAgree (.next s) (.next t)
  | fault (r : Fault) : OutcomesAgree (.fault r) (.fault r)
  | refused (r : Refusal) : OutcomesAgree (.refused r) (.refused r)

theorem OutcomesAgree.of_next {s : State} {o : Host.Outcome State Fault Refusal} (h : OutcomesAgree (.next s) o) :
    ∃ t, o = .next t ∧ s.Agrees t := by
  cases h with | next h => exact ⟨_, rfl, h⟩

theorem OutcomesAgree.of_fault {r : Fault} {o : Host.Outcome State Fault Refusal} (h : OutcomesAgree (.fault r) o) :
    o = .fault r := by
  cases h; rfl

theorem OutcomesAgree.of_refused {r : Refusal} {o : Host.Outcome State Fault Refusal}
    (h : OutcomesAgree (.refused r) o) : o = .refused r := by
  cases h; rfl

/-- Outcomes that agree, continued alike from every pair of states that they can give, agree. -/
theorem OutcomesAgree.andThen {o o' : Host.Outcome State Fault Refusal}
    {k : State → Host.Outcome State Fault Refusal} (h : OutcomesAgree o o')
    (hk : ∀ s t, o = .next s → s.Agrees t → OutcomesAgree (k s) (k t)) :
    OutcomesAgree (andThen o k) (andThen o' k) := by
  cases h with
  | next h => exact hk _ _ rfl h
  | fault r => exact .fault r
  | refused r => exact .refused r

/-- The bytes written, when one more is written behind them. -/
theorem toList_take_succ_set {n i : Nat} (v : Vector Byte n) (b : Byte) (hi : i < n) :
    (v.set i b hi).toList.take (i + 1) = v.toList.take i ++ [b] := by
  rw [Vector.toList_set, List.take_succ_eq_append_getElem (by simpa using hi), List.take_set,
    List.set_eq_of_length_le (by simp), List.getElem_set_self]

section
variable {s t : State} (h : s.Agrees t)
include h

/-! One rule per operation: on states that agree it gives states that agree. -/

theorem State.Agrees.withInput (l : List Input) :
    State.Agrees { s with input := l } { t with input := l } := { h with input := rfl }

theorem State.Agrees.beginStep : s.beginStep.Agrees t.beginStep :=
  { h with delivered := by simp [h.delivered, h.events], events := rfl }

theorem State.Agrees.note (d : Discard) : (s.note d).Agrees (t.note d) :=
  { h with notes := by simp [h.notes] }

theorem State.Agrees.emit (es : List Event) : (s.emit es).Agrees (t.emit es) :=
  { h with events := by simp [h.events] }

theorem State.Agrees.setSnapshot (md : Byte) (new : Vector Byte Config.keySlots) :
    (s.setSnapshot md new).Agrees (t.setSnapshot md new) := { h with snapMod := rfl, snapKey := rfl }

theorem State.Agrees.setPst {p : ParserState} (hp : ReadsNoRegister p) : (s.setPst p).Agrees (t.setPst p) := by
  obtain ⟨hlen, hpl, hck⟩ := hp
  exact { h with pst := rfl, cmd := fun hp => absurd hp hlen, frame := fun hp => (hp.elim hpl hck).elim }

theorem State.Agrees.applyReset (k : Nat) : (s.applyReset k).Agrees (t.applyReset k) where
  pst := rfl
  snapMod := rfl
  snapKey := rfl
  input := h.input
  delivered := by simp [h.delivered, h.events]
  events := rfl
  notes := h.notes
  cmd := by simp
  frame := by simp

theorem State.Agrees.moveTo {p : ParserState} (hp : ReadsNoRegister p) : OutcomesAgree (s.moveTo p) (t.moveTo p) :=
  .next (h.beginStep.setPst hp)

theorem State.Agrees.framingError (d : Discard) : OutcomesAgree (s.framingError d) (t.framingError d) :=
  .next ((h.beginStep.setPst (by decide)).note d)

/-- LEN reads only the command code, which both states have just recorded. -/
theorem State.Agrees.recordCommand (c : Byte) : OutcomesAgree (s.recordCommand c) (t.recordCommand c) :=
  .next { h.beginStep with pst := rfl, cmd := fun _ => rfl, frame := by simp }

/-- With `idx` at 0 no payload byte is written yet, so the buffers may differ as they will. -/
theorem State.Agrees.recordLength (hp : s.pst = .len) (n : Byte) :
    OutcomesAgree (s.recordLength n) (t.recordLength n) :=
  .next { h.beginStep with pst := rfl, cmd := by simp, frame := fun _ => ⟨h.cmd hp, rfl, rfl, by simp⟩ }

/-- A payload byte goes behind the bytes written so far, which agree, so the bytes written agree again. -/
theorem State.Agrees.appendPayload (hp : s.pst = .pl) (b : Byte) (p : ParserState) :
    OutcomesAgree (s.appendPayload b p) (t.appendPayload b p) := by
  obtain ⟨hcmd, hlen, hidx, hpay⟩ := h.frame (.inl hp)
  unfold State.appendPayload
  by_cases hi : s.idx.toNat < Config.payloadMax
  · have hi' : t.idx.toNat < Config.payloadMax := hidx ▸ hi
    rw [dif_pos hi, dif_pos hi']
    refine .next { h.beginStep with pst := rfl, cmd := fun _ => hcmd, frame := fun _ => ⟨hcmd, hlen, ?_, ?_⟩ }
    · exact congrArg (· + 1) hidx
    · dsimp only
      rw [idx_succ hi, toList_take_succ_set, hpay]
      simp only [hidx]
      exact (toList_take_succ_set t.pay b hi').symm
  · have hi' : ¬ t.idx.toNat < Config.payloadMax := hidx ▸ hi
    rw [dif_neg hi, dif_neg hi']
    exact .fault _

/-- The translators read the packet and the snapshot, and no register. -/
theorem State.Agrees.dispatch (p : Packet) : OutcomesAgree (dispatch p s) (dispatch p t) := by
  unfold Machine.dispatch
  split_ifs
  · split
    · rw [kbdTranslate, kbdTranslate, h.snapKey]
      exact .next ((h.emit _).setSnapshot _ _)
    · exact .fault _
  · split
    · exact .next (h.emit _)
    · exact .fault _
  · exact .fault _

theorem State.Agrees.completePacket (p : Packet) : OutcomesAgree (completePacket p s) (completePacket p t) := by
  unfold Machine.completePacket
  split_ifs
  · exact h.dispatch p
  · exact .next (h.note _)

/-- In a reachable CK state the payload is full, so the packet is made of bytes that agree (R115). -/
theorem State.Agrees.packet?_eq (hs : s.Inv) (hp : s.pst = .ck) (b : Byte) : s.packet? b = t.packet? b := by
  obtain ⟨hcmd, hlen, -, hpay⟩ := h.frame (.inr hp)
  obtain ⟨-, -, hck⟩ := hs
  obtain ⟨-, hfull⟩ := hck hp
  unfold State.packet?
  rw [← hcmd, ← hlen, ← hfull, hpay]

theorem State.Agrees.execCkByte (hs : s.Inv) (hp : s.pst = .ck) (b : Byte) :
    OutcomesAgree (execCkByte b s) (execCkByte b t) := by
  unfold Machine.execCkByte
  rw [h.packet?_eq hs hp b]
  split
  · exact (h.beginStep.setPst (by decide)).completePacket _
  · exact .fault _

/-- One byte, by the state machine: whatever a state's rules read, the two states agree on. -/
theorem State.Agrees.feedByte (hs : s.Inv) (b : Byte) : OutcomesAgree (feedByte b s) (feedByte b t) := by
  unfold Machine.feedByte
  rw [← h.pst]
  cases hp : s.pst with
  | h1 => dsimp only; split_ifs <;> exact h.moveTo (by decide)
  | h2 | cm =>
    dsimp only; split_ifs
    · exact h.moveTo (by decide)
    · exact h.framingError _
  | cmd =>
    dsimp only; split_ifs
    · exact h.recordCommand _
    · exact h.recordCommand _
    · exact h.framingError _
  | len =>
    dsimp only; rw [← h.cmd hp]; split_ifs
    · exact h.recordLength hp _
    · exact h.recordLength hp _
    · exact h.framingError _
  | pl =>
    obtain ⟨-, hlen, hidx, -⟩ := h.frame (.inl hp)
    dsimp only; rw [← hlen, ← hidx]; split_ifs
    · exact h.appendPayload hp b .pl
    · exact h.appendPayload hp b .ck
    · exact .refused _
  | ck => exact h.execCkByte hs hp b

theorem State.Agrees.sinkStall : OutcomesAgree (takeSinkStall s) (takeSinkStall t) := by
  unfold takeSinkStall
  rw [← h.events]
  split_ifs
  · exact .next h
  · exact .fault _

end

theorem State.Agrees.feedBytes (bs : List Byte) {s t : State} (h : s.Agrees t) (hs : s.Inv) :
    OutcomesAgree (feedBytes bs s) (feedBytes bs t) := by
  induction bs generalizing s t with
  | nil => exact .next h
  | cons b bs ih => exact (h.feedByte hs b).andThen fun u v hu huv => ih huv (feedByte_keeps_inv s u b hs hu)

theorem State.Agrees.takeInput (i : Input) {s t : State} (h : s.Agrees t) (hs : s.Inv) :
    OutcomesAgree (takeInput i s) (takeInput i t) := by
  cases i with
  | byte b =>
    show OutcomesAgree (takeByte b s) (takeByte b t)
    rw [takeByte_eq_feedByte, takeByte_eq_feedByte]
    exact h.feedByte hs b
  | burst bs =>
    show OutcomesAgree (takeBurst bs s) (takeBurst bs t)
    rw [takeBurst_eq_feedBytes, takeBurst_eq_feedBytes]
    exact h.feedBytes bs hs
  | rst =>
    have hk : t.applyReset t.events.length = t.applyReset s.events.length := by rw [h.events]
    exact .next (hk ▸ h.applyReset _)
  | rstDelivering k => exact .next (h.applyReset k)
  | sinkStall => exact h.sinkStall

theorem State.Agrees.step {s t : State} (h : s.Agrees t) (hs : s.Inv) : OutcomesAgree (step s) (step t) := by
  cases hin : s.input with
  | nil => rw [step_waiting hin, step_waiting (h.input ▸ hin)]; exact .next h
  | cons i rest =>
    rw [step_input hin, step_input (h.input ▸ hin)]
    exact (h.withInput rest).takeInput i hs

/-- Settles O48: the steps' outcomes agree. -/
theorem staleRegistersAreUnobservable : Obligations.StaleRegistersAreUnobservable := by
  intro s t hs _ h
  have hstep := h.step hs
  refine ⟨fun s' hs' => ?_, fun r hr => ?_, fun r hr => ?_⟩
  · exact (hs' ▸ hstep).of_next
  · exact (hr ▸ hstep).of_fault
  · exact (hr ▸ hstep).of_refused

end Sys2Proof.Machine
end

section
/-! The CK byte in a reachable state (O20): the packet always has the shape its command code mandates, so it is either
discarded or translated, and the framer hunts again. -/

namespace Sys2Proof.Machine

/-- Command code `c` mandates the payload length `n` (R63, R64): `State.FrameShape`, said of any two bytes. -/
abbrev Mandates (c n : Byte) : Prop :=
  (c = Config.cmdMouse ∧ n = Config.lenMouse) ∨ (c = Config.cmdKbd ∧ n = Config.lenKbd)

theorem Mandates.le_payloadMax {c n : Byte} (h : Mandates c n) : n.toNat ≤ Config.payloadMax := by
  rcases h with ⟨-, rfl⟩ | ⟨-, rfl⟩ <;> decide

theorem exists_mouseOperands : ∀ {bs : List Byte}, Config.lenMouse.toNat ≤ bs.length → ∃ o, mouseOperands bs = some o
  | _ :: _ :: _ :: _ :: _ :: _, _ => ⟨_, rfl⟩

theorem exists_kbdOperands : ∀ {bs : List Byte}, Config.lenKbd.toNat ≤ bs.length → ∃ o, kbdOperands bs = some o
  | _ :: _ :: _ :: _ :: _ :: _ :: _ :: _ :: _, _ => ⟨_, rfl⟩

/-- A packet of a mandated shape is dispatched to its translator, which finds all its operands (R142). -/
theorem dispatch_completes {p : Packet} (s : State) (hp : Mandates p.command p.length)
    (hl : p.payload.length = p.length.toNat) : ∃ t, dispatch p s = .next t := by
  unfold dispatch
  rcases hp with ⟨hc, hn⟩ | ⟨hc, hn⟩ <;> rw [hn] at hl
  · obtain ⟨o, ho⟩ := exists_mouseOperands hl.ge
    rw [hc, if_neg (by decide), if_pos rfl, ho]
    exact ⟨_, rfl⟩
  · obtain ⟨o, ho⟩ := exists_kbdOperands hl.ge
    rw [hc, if_pos rfl, ho]
    exact ⟨_, rfl⟩

theorem execCkByte_completes {s : State} (b : Byte) (hf : s.FrameShape) : ∃ t, execCkByte b s = .next t := by
  have hlen : s.len.toNat ≤ Config.payloadMax := Mandates.le_payloadMax hf
  rw [execCkByte_eq b hlen]
  unfold completePacket
  split_ifs
  · exact dispatch_completes _ hf (by simpa using hlen)
  · exact ⟨_, rfl⟩

theorem feedByte_ck {s : State} (b : Byte) (hp : s.pst = .ck) : feedByte b s = execCkByte b s := by
  rw [feedByte, hp]

/-- A byte's step hands the earlier step's events over to the sink (R224). -/
theorem ByteStep.delivered_eq {s t : State} {b : Byte} (h : ByteStep s b t) : t.delivered = s.delivered ++ s.events := by
  cases h <;> rfl

/-- The CK byte moves the framer to H1 and writes no other register of the framer (R115). -/
theorem ByteStep.of_ck {s t : State} {b : Byte} (h : ByteStep s b t) (hp : s.pst = .ck) :
    t.pst = .h1 ∧ t.cmd = s.cmd ∧ t.len = s.len ∧ t.idx = s.idx ∧ t.pay = s.pay := by
  cases h with
  | move _ h => simp [hp] at h
  | framing _ h => simp [hp] at h
  | command h | length h | payload _ h => rw [hp] at h; cases h
  | mismatch | keyboard | mouse => exact ⟨rfl, rfl, rfl, rfl, rfl⟩

/-- Settles O20: the byte completes the packet, and whatever it does it writes no register of the framer but `pst`. -/
theorem checksumByteReturnsTheFramerToHunting : Obligations.ChecksumByteReturnsTheFramerToHunting := by
  intro s b hs hp
  obtain ⟨-, -, hck⟩ := hs
  obtain ⟨hf, -⟩ := hck hp
  obtain ⟨t, ht⟩ := execCkByte_completes b hf
  have hstep : ByteStep s b t := execCkByte_next hp ht
  obtain ⟨hpst, hcmd, hlen, hidx, hpay⟩ := hstep.of_ck hp
  have hinput : t.input = s.input := feedByte_input ((feedByte_ck b hp).trans ht)
  exact ⟨decodeByte_ck s.ctx b hp, t, ht, hpst, hcmd, hlen, hidx, hpay, hinput, hstep.delivered_eq⟩

end Sys2Proof.Machine
end

section
/-! A whole frame that arrives in H1 (O29): its header and payload bytes fill the registers, and its checksum byte
completes its packet. -/

namespace Sys2Proof.Machine

theorem feedBytes_singleton (b : Byte) (s : State) : feedBytes [b] s = feedByte b s := by
  unfold feedBytes
  cases feedByte b s <;> rfl

theorem feedByte_hdr1 {s : State} (hp : s.pst = .h1) : feedByte Config.hdr1 s = s.moveTo .h2 := by
  rw [feedByte, hp]; rfl

theorem feedByte_hdr2 {s : State} (hp : s.pst = .h2) : feedByte Config.hdr2 s = s.moveTo .cm := by
  rw [feedByte, hp]; rfl

theorem feedByte_marker {s : State} (hp : s.pst = .cm) : feedByte Config.marker s = s.moveTo .cmd := by
  rw [feedByte, hp]; rfl

theorem feedByte_command {s : State} (hp : s.pst = .cmd) {c : Byte} (hc : c = Config.cmdMouse ∨ c = Config.cmdKbd) :
    feedByte c s = s.recordCommand c := by
  rw [feedByte, hp]
  rcases hc with rfl | rfl <;> rfl

theorem feedByte_length {s : State} (hp : s.pst = .len) {n : Byte} (hn : Mandates s.cmd n) :
    feedByte n s = s.recordLength n := by
  rw [feedByte, hp]
  rcases hn with ⟨hc, rfl⟩ | ⟨hc, rfl⟩ <;> dsimp only <;> rw [hc] <;> rfl

/-- The five header bytes of a frame, taken from H1: the framer is in PL with the frame's command code and length. -/
theorem feedBytes_header {s : State} (hp : s.pst = .h1) {c n : Byte} (hcn : Mandates c n) :
    feedBytes [Config.hdr1, Config.hdr2, Config.marker, c, n] s =
      .next { s.beginStep with pst := .pl, cmd := c, len := n, idx := 0 } := by
  have hc : c = Config.cmdMouse ∨ c = Config.cmdKbd := hcn.imp And.left And.left
  rw [feedBytes, feedByte_hdr1 hp, State.moveTo, andThen_next,
    feedBytes, feedByte_hdr2 rfl, State.moveTo, andThen_next,
    feedBytes, feedByte_marker rfl, State.moveTo, andThen_next,
    feedBytes, feedByte_command rfl hc, State.recordCommand, andThen_next,
    feedBytes_singleton, feedByte_length rfl hcn, State.recordLength]
  simp [State.beginStep, State.setPst, State.setCmd, State.openPayload]

/-- A frame taken from H1 is its packet, completed where the registers hold the frame's fields (R116). The bytes of the
buffer behind the payload keep their values. -/
theorem feedBytes_frame {s : State} (hp : s.pst = .h1) {c n : Byte} (hcn : Mandates c n) {xs : List Byte}
    (hxs : xs.length = n.toNat) (k : Byte) {pay : Vector Byte Config.payloadMax}
    (hpay : pay.toList = xs ++ s.pay.toList.drop n.toNat) :
    feedBytes ([Config.hdr1, Config.hdr2, Config.marker, c, n] ++ (xs ++ [k])) s =
      completePacket ⟨c, n, xs, k⟩ { s.beginStep with cmd := c, len := n, idx := n.setWidth 4, pay := pay } := by
  have hn : n.toNat ≤ Config.payloadMax := hcn.le_payloadMax
  have hne : xs ≠ [] := by
    rintro rfl
    rcases hcn with ⟨-, rfl⟩ | ⟨-, rfl⟩ <;> cases hxs
  rw [feedBytes_append, feedBytes_header hp hcn, andThen_next, feedBytes_append]
  obtain ⟨t, ht, heq, hidx, htpay⟩ := feedBytes_payload xs
    { s.beginStep with pst := .pl, cmd := c, len := n, idx := 0 } rfl hne (by simpa using hxs) hn
  have hidx' : t.idx = n.setWidth 4 := by
    refine BitVec.eq_of_toNat_eq (hidx.trans ?_)
    rw [BitVec.toNat_setWidth, Nat.mod_eq_of_lt (hn.trans_lt (by decide))]
  have hpay' : t.pay = pay := Vector.toList_inj.1 (by simpa [hpay] using htpay)
  rw [ht, andThen_next, heq, hidx', hpay', feedBytes_singleton, feedByte_ck _ rfl, execCkByte_eq _ hn]
  simp [hpay, ← hxs, State.beginStep, State.setPst, hp]

/-- The verdict on a mouse packet, with the constant part of its sum added up (R131). -/
theorem validate_mouse_iff (bt dx dy wh rsv c : Byte) :
    validate ⟨Config.cmdMouse, Config.lenMouse, [bt, dx, dy, wh, rsv], c⟩ = true ↔
      c = 0x08 + bt + dx + dy + wh + rsv := by
  have hsum : 0x02 + Config.cmdMouse + Config.lenMouse + byteSum [bt, dx, dy, wh, rsv] =
      0x08 + bt + dx + dy + wh + rsv := by
    simp [← BitVec.add_assoc]
  rw [validate_iff, hsum, eq_comm]

/-- The bytes of the buffer behind a mouse payload. -/
theorem toList_drop_lenMouse (v : Vector Byte Config.payloadMax) :
    v.toList.drop Config.lenMouse.toNat = [v[5], v[6], v[7]] := by
  have hl : v.toList.length = 8 := by simp
  show v.toList.drop 5 = _
  rw [List.drop_eq_getElem_cons (by omega), List.drop_eq_getElem_cons (by omega),
    List.drop_eq_getElem_cons (by omega), List.drop_eq_nil_of_le (by omega)]
  rfl

/-- Settles O29: the frame's packet is a mouse packet, so it is one report or a discard. -/
theorem mouseFrameIsRecognizedFromHunting : Obligations.MouseFrameIsRecognizedFromHunting := by
  intro s bt dx dy wh rsv c hp
  have hpay : #v[bt, dx, dy, wh, rsv, s.pay[5], s.pay[6], s.pay[7]].toList =
      [bt, dx, dy, wh, rsv] ++ s.pay.toList.drop Config.lenMouse.toNat := by
    rw [toList_drop_lenMouse]; rfl
  rw [exec_frame rfl]
  refine (feedBytes_frame hp (.inl ⟨rfl, rfl⟩) rfl c hpay).trans ?_
  unfold completePacket
  by_cases hc : c = 0x08 + bt + dx + dy + wh + rsv
  · rw [if_pos ((validate_mouse_iff ..).2 hc), if_pos hc, if_pos hc]
    rfl
  · rw [if_neg (mt (validate_mouse_iff ..).1 hc), if_neg hc, if_neg hc]
    rfl

end Sys2Proof.Machine
end

section
/-! The snapshot is written only by a valid keyboard packet (O52). -/

namespace Sys2Proof.Machine

/-- The verdict, with the sum taken exactly and then modulo 256 (R130). -/
theorem validate_iff_toNat (p : Packet) : validate p = true ↔
    (0x57 + 0xAB + 0x00 + p.command.toNat + p.length.toNat + (p.payload.map BitVec.toNat).sum) % 256 =
      p.checksum.toNat := by
  rw [validate, beq_iff_eq, ← BitVec.toNat_inj, packetSum, byteSum_toNat]
  simp [← Nat.add_assoc]

theorem byteStep_of_step {s t : State} {b : Byte} {rest : List Input} (hin : s.input = .byte b :: rest)
    (h : step s = .next t) : ByteStep { s with input := rest } b t := by
  rw [step_input hin] at h
  exact feedByte_next (takeByte_eq_feedByte b _ ▸ h)

/-- Settles O52: of all a byte can do, only a keyboard packet that validates writes the snapshot. -/
theorem snapshotIsWrittenOnlyByAValidKeyboardPacket : Obligations.SnapshotIsWrittenOnlyByAValidKeyboardPacket := by
  intro s t b rest hin hstep hsnap
  cases byteStep_of_step hin hstep with
  | keyboard p _ _ _ hp hk hv hc =>
    obtain ⟨-, rfl⟩ := packet?_eq hk
    exact ⟨hp, hc, (validate_iff_toNat _).1 hv⟩
  | move | framing | command | length | payload | mismatch | mouse => exact (hsnap.elim (· rfl) (· rfl)).elim

end Sys2Proof.Machine
end

section
/-! What the reset operation leaves (O1), and the codes of the framer's states (O56). -/

namespace Sys2Proof.Machine

/-- Settles O1: the reset clears the framer and the snapshot, the sink having accepted every event. -/
theorem resetLeavesHuntStateAndEmptySnapshot : Obligations.ResetLeavesHuntStateAndEmptySnapshot := by
  refine ⟨fun s rest hin => ?_, rfl, rfl, rfl, rfl⟩
  refine ⟨State.applyReset { s with input := rest } s.events.length, step_input hin, rfl, rfl, rfl, rfl, ?_, rfl, rfl⟩
  simp

theorem pstOfCode_pstCode (p : ParserState) : pstOfCode (pstCode p) = p := by
  cases p <;> rfl

/-- Settles O56: the table's codes, each read back, and the code that is no state's. -/
theorem parserStateCodesFollowTheTable : Obligations.ParserStateCodesFollowTheTable :=
  ⟨rfl, rfl, rfl, rfl, rfl, rfl, rfl, pstOfCode_pstCode, rfl⟩

end Sys2Proof.Machine
end

section
/-! Events come from one packet at the CK byte (O50), and a payload write past the buffer faults (O19). -/

namespace Sys2Proof.Machine

/-- A keyboard packet sends key events only (R152, R153). -/
theorem exists_key_of_mem_keyDiff {old new : List Byte} {e : Event} (he : e ∈ keyDiff old new) :
    ∃ k, e = .keyUp k ∨ e = .keyDown k := by
  rcases List.mem_append.1 he with hr | hp
  · obtain ⟨k, -, rfl⟩ := List.mem_map.1 hr
    exact ⟨k, .inl rfl⟩
  · obtain ⟨k, -, rfl⟩ := List.mem_map.1 hp
    exact ⟨k, .inr rfl⟩

/-- Settles O50: of all a byte can do, only a packet that validates sends events, and its one translator sends them. -/
theorem eventsComeOnlyFromOnePacketAtTheChecksumByte : Obligations.EventsComeOnlyFromOnePacketAtTheChecksumByte := by
  intro s t b rest hin hstep hevents
  cases byteStep_of_step hin hstep with
  | keyboard _ _ _ _ hp => exact ⟨hp, rfl, .inl fun _ => exists_key_of_mem_keyDiff⟩
  | mouse _ _ _ _ _ _ hp => exact ⟨hp, rfl, .inr ⟨_, rfl⟩⟩
  | move | framing | command | length | payload | mismatch => exact (hevents rfl).elim

theorem State.appendPayload_pastBuffer {s : State} (h : Config.payloadMax ≤ s.idx.toNat) (b : Byte) (p : ParserState) :
    s.appendPayload b p = .fault .payloadOutOfRange :=
  dif_neg h.not_gt

/-- Settles O19: both rows store the byte at `idx`. -/
theorem payloadWritePastTheBufferFaults : Obligations.PayloadWritePastTheBufferFaults :=
  fun _ b h => ⟨State.appendPayload_pastBuffer h b .pl, State.appendPayload_pastBuffer h b .ck⟩

end Sys2Proof.Machine
end

section
/-! The byte decoder and the encoder agree (O9): the decoder gives exactly the byte row that applies in the context and
whose byte is the byte read. -/

namespace Sys2Proof

/-! When each byte row is well formed and applies (R78). -/

@[simp] theorem appliesIn_h1Hdr1 (ctx : FramerCtx) : Instr.appliesIn ctx .h1Hdr1 = true ↔ ctx.pst = .h1 := by
  simp [Instr.appliesIn, Instr.wellFormed, Instr.contextOk]

@[simp] theorem appliesIn_h1Idle (ctx : FramerCtx) (b : Byte) :
    Instr.appliesIn ctx (.h1Idle b) = true ↔ b ≠ Config.hdr1 ∧ ctx.pst = .h1 := by
  simp [Instr.appliesIn, Instr.wellFormed, Instr.contextOk]

@[simp] theorem appliesIn_h2Hdr2 (ctx : FramerCtx) : Instr.appliesIn ctx .h2Hdr2 = true ↔ ctx.pst = .h2 := by
  simp [Instr.appliesIn, Instr.wellFormed, Instr.contextOk]

@[simp] theorem appliesIn_h2Err (ctx : FramerCtx) (b : Byte) :
    Instr.appliesIn ctx (.h2Err b) = true ↔ b ≠ Config.hdr2 ∧ ctx.pst = .h2 := by
  simp [Instr.appliesIn, Instr.wellFormed, Instr.contextOk]

@[simp] theorem appliesIn_cmMark (ctx : FramerCtx) : Instr.appliesIn ctx .cmMark = true ↔ ctx.pst = .cm := by
  simp [Instr.appliesIn, Instr.wellFormed, Instr.contextOk]

@[simp] theorem appliesIn_cmErr (ctx : FramerCtx) (b : Byte) :
    Instr.appliesIn ctx (.cmErr b) = true ↔ b ≠ Config.marker ∧ ctx.pst = .cm := by
  simp [Instr.appliesIn, Instr.wellFormed, Instr.contextOk]

@[simp] theorem appliesIn_cmdMouse (ctx : FramerCtx) : Instr.appliesIn ctx .cmdMouse = true ↔ ctx.pst = .cmd := by
  simp [Instr.appliesIn, Instr.wellFormed, Instr.contextOk]

@[simp] theorem appliesIn_cmdKbd (ctx : FramerCtx) : Instr.appliesIn ctx .cmdKbd = true ↔ ctx.pst = .cmd := by
  simp [Instr.appliesIn, Instr.wellFormed, Instr.contextOk]

@[simp] theorem appliesIn_cmdErr (ctx : FramerCtx) (b : Byte) :
    Instr.appliesIn ctx (.cmdErr b) = true ↔ (b ≠ Config.cmdMouse ∧ b ≠ Config.cmdKbd) ∧ ctx.pst = .cmd := by
  simp [Instr.appliesIn, Instr.wellFormed, Instr.contextOk]

@[simp] theorem appliesIn_lenMouse (ctx : FramerCtx) :
    Instr.appliesIn ctx .lenMouse = true ↔ ctx.pst = .len ∧ ctx.cmd = Config.cmdMouse := by
  simp [Instr.appliesIn, Instr.wellFormed, Instr.contextOk]

@[simp] theorem appliesIn_lenKbd (ctx : FramerCtx) :
    Instr.appliesIn ctx .lenKbd = true ↔ ctx.pst = .len ∧ ctx.cmd = Config.cmdKbd := by
  simp [Instr.appliesIn, Instr.wellFormed, Instr.contextOk]

@[simp] theorem appliesIn_lenErr (ctx : FramerCtx) (b : Byte) :
    Instr.appliesIn ctx (.lenErr b) = true ↔ ctx.pst = .len ∧
      ¬(ctx.cmd = Config.cmdMouse ∧ b = Config.lenMouse) ∧ ¬(ctx.cmd = Config.cmdKbd ∧ b = Config.lenKbd) := by
  simp [Instr.appliesIn, Instr.wellFormed, Instr.contextOk, and_assoc, -not_and, not_and_or]

@[simp] theorem appliesIn_plByte (ctx : FramerCtx) (b : Byte) :
    Instr.appliesIn ctx (.plByte b) = true ↔ ctx.pst = .pl ∧ ctx.idx.toNat + 1 < ctx.len.toNat := by
  simp [Instr.appliesIn, Instr.wellFormed, Instr.contextOk]

@[simp] theorem appliesIn_plLast (ctx : FramerCtx) (b : Byte) :
    Instr.appliesIn ctx (.plLast b) = true ↔ ctx.pst = .pl ∧ ctx.idx.toNat + 1 = ctx.len.toNat := by
  simp [Instr.appliesIn, Instr.wellFormed, Instr.contextOk]

@[simp] theorem appliesIn_ckByte (ctx : FramerCtx) (b : Byte) :
    Instr.appliesIn ctx (.ckByte b) = true ↔ ctx.pst = .ck := by
  simp [Instr.appliesIn, Instr.wellFormed, Instr.contextOk]

/-- The decoder gives only byte rows that apply, and their byte is the byte read (R78). -/
theorem decodeByte_sound {ctx : FramerCtx} {b : Byte} {i : Instr} (h : decodeByte ctx b = .ok i) :
    i.isByteRow = true ∧ i.appliesIn ctx = true ∧ encode i = [b] := by
  cases hp : ctx.pst with
  | h1 =>
    rw [decodeByte_h1 ctx b hp] at h; cases h
    split_ifs with hb <;> simp [Instr.isByteRow, encode, hp, hb]
  | h2 =>
    rw [decodeByte_h2 ctx b hp] at h; cases h
    split_ifs with hb <;> simp [Instr.isByteRow, encode, hp, hb]
  | cm =>
    rw [decodeByte_cm ctx b hp] at h; cases h
    split_ifs with hb <;> simp [Instr.isByteRow, encode, hp, hb]
  | cmd =>
    rw [decodeByte_cmd ctx b hp] at h; cases h
    split_ifs with hm hk <;> simp [Instr.isByteRow, encode, *]
  | len =>
    rw [decodeByte_len ctx b hp] at h; cases h
    split_ifs with hm hk <;> simp [Instr.isByteRow, encode, *]
  | pl =>
    rw [decodeByte_pl ctx b hp] at h
    split_ifs at h with hmore hlast <;> cases h <;> simp [Instr.isByteRow, encode, *]
  | ck =>
    rw [decodeByte_ck ctx b hp] at h; cases h
    simp [Instr.isByteRow, encode, hp]

/-- A byte row that applies is what its own byte decodes to (R101 to R115, "Encoding"). -/
theorem decodeByte_complete {ctx : FramerCtx} {i : Instr} (hi : i.isByteRow = true) (h : i.appliesIn ctx = true) :
    ∃ b, encode i = [b] ∧ decodeByte ctx b = .ok i := by
  cases i with
  | h1Hdr1 | h1Idle => exact ⟨_, rfl, by simp_all [decodeByte_h1]⟩
  | h2Hdr2 | h2Err => exact ⟨_, rfl, by simp_all [decodeByte_h2]⟩
  | cmMark | cmErr => exact ⟨_, rfl, by simp_all [decodeByte_cm]⟩
  | cmdMouse | cmdKbd | cmdErr => exact ⟨_, rfl, by simp_all [decodeByte_cmd]⟩
  | lenMouse | lenKbd => exact ⟨_, rfl, by simp_all [decodeByte_len]⟩
  | lenErr b =>
    obtain ⟨hp, hm, hk⟩ := (appliesIn_lenErr ctx b).1 h
    exact ⟨b, rfl, (decodeByte_len ctx b hp).trans (congrArg _ ((if_neg hm).trans (if_neg hk)))⟩
  | plByte | plLast => exact ⟨_, rfl, by simp_all [decodeByte_pl]⟩
  | ckByte => exact ⟨_, rfl, by simp_all [decodeByte_ck]⟩
  | frameMouse | frameKbd => cases hi

/-- Settles O9: the decoder is complete and sound for the byte rows. -/
theorem byteRowsDecodeTheirEncoding : Obligations.ByteRowsDecodeTheirEncoding :=
  ⟨fun _ _ => decodeByte_complete, fun _ _ _ => decodeByte_sound⟩

end Sys2Proof
end

section
/-! The frame decoder and the encoder agree (O10), and what is no frame is rejected at its first wrong position
(O11). -/

namespace Sys2Proof

/-- A frame's bytes decode to it, whatever follows them (R61 to R66). -/
theorem decodeFrame_encode {i : Instr} (h : i.isByteRow = false) (rest : List Byte) :
    decodeFrame (encode i ++ rest) = .ok (i, rest) := by
  cases i with
  | frameMouse | frameKbd => rfl
  | _ => cases h

/-- Settles O10: each direction of the frame decoder. -/
theorem framesDecodeTheirEncoding : Obligations.FramesDecodeTheirEncoding :=
  ⟨fun _ rest hi => decodeFrame_encode hi rest, fun _ _ _ => Machine.decodeFrame_ok⟩

theorem exists_decodeMouseBody : ∀ {body : List Byte}, Config.lenMouse.toNat + 1 ≤ body.length →
    ∃ i rest, decodeMouseBody body = .ok (i, rest)
  | _ :: _ :: _ :: _ :: _ :: _ :: _, _ => ⟨_, _, rfl⟩

theorem exists_decodeKbdBody : ∀ {body : List Byte}, Config.lenKbd.toNat + 1 ≤ body.length →
    ∃ i rest, decodeKbdBody body = .ok (i, rest)
  | _ :: _ :: _ :: _ :: _ :: _ :: _ :: _ :: _ :: _, _ => ⟨_, _, rfl⟩

/-- Settles O11: the decoder looks at positions 0 to 4 in order, and the body is long enough for either frame. -/
theorem bytesThatAreNoFrameAreRejectedByPosition : Obligations.BytesThatAreNoFrameAreRejectedByPosition := by
  intro b0 b1 b2 b3 b4 body hlen
  refine ⟨?badHeader1, ?badHeader2, ?badMarker, ?badCommand, ?badLength, ?frame⟩
  case badHeader1 => exact fun h0 => if_pos h0
  case badHeader2 => rintro rfl h1; exact if_pos h1
  case badMarker => rintro rfl rfl h2; exact if_pos h2
  case badCommand => rintro rfl rfl rfl hm hk; exact (if_neg hm).trans (if_neg hk)
  case badLength =>
    rintro rfl rfl rfl (⟨rfl, hl⟩ | ⟨rfl, hl⟩)
    · exact if_neg hl
    · exact if_neg hl
  case frame =>
    rintro rfl rfl rfl (⟨rfl, rfl⟩ | ⟨rfl, rfl⟩)
    · exact exists_decodeMouseBody (le_trans (by decide) hlen)
    · exact exists_decodeKbdBody hlen

end Sys2Proof
end

section
/-! Exactly one row of the opcode table wins (O8). Of two rows of one state that both apply to a byte, the table has
the one of lower priority number first, so the first row that applies wins. -/

namespace Sys2Proof

/-- Where both rows apply to one byte in one context, `r` is the one that wins (R78). -/
def Row.Outranks (r r' : Row) : Prop :=
  ∀ ctx b, r.applies ctx b = true → r'.applies ctx b = true → r.priority < r'.priority

theorem Row.state_of_applies {r : Row} {ctx : FramerCtx} {b : Byte} (h : r.applies ctx b = true) :
    r.state = ctx.pst := by
  simp only [Row.applies, Bool.and_eq_true, decide_eq_true_eq] at h
  exact h.1.1

/-- Rows of different states never meet. -/
theorem Row.outranks_of_state {r r' : Row} (h : r.state = r'.state → r.Outranks r') : r.Outranks r' :=
  fun ctx b hr hr' => h ((state_of_applies hr).trans (state_of_applies hr').symm) ctx b hr hr'

/-- The table has its rows in the order in which they win. Two rows of one state differ in priority, or take different
bytes (CMD, LEN), or have guards that exclude each other (PL). -/
theorem opcodeTable_pairwise_outranks : opcodeTable.Pairwise Row.Outranks := by
  refine List.Pairwise.imp Row.outranks_of_state ?_
  have hguards : ∀ ctx : FramerCtx, .pl = ctx.pst → ctx.idx.toNat + 1 < ctx.len.toNat →
      ctx.idx.toNat + 1 ≠ ctx.len.toNat := fun _ _ hmore => hmore.ne
  simpa +contextual [opcodeTable, Row.Outranks, Row.applies, noGuard] using hguards

/-- Of a list with the winners first, the first row that applies outranks every other that applies. -/
theorem priority_lt_of_find? {rows : List Row} (hrows : rows.Pairwise Row.Outranks) {ctx : FramerCtx} {b : Byte}
    {r r' : Row} (hr : rows.find? (·.applies ctx b) = some r) (hr' : r' ∈ rows) (happ' : r'.applies ctx b = true)
    (hne : r' ≠ r) : r.priority < r'.priority := by
  obtain ⟨happ, before, after, rfl, hbefore⟩ := List.find?_eq_some_iff_append.1 hr
  obtain ⟨-, htail, -⟩ := List.pairwise_append.1 hrows
  rcases List.mem_append.1 hr' with hmem | hmem
  · have hskip := hbefore r' hmem
    simp [happ'] at hskip
  · have hmem' : r' ∈ after := (List.mem_cons.1 hmem).resolve_left hne
    exact List.rel_of_pairwise_cons htail hmem' ctx b happ happ'

/-- The decoder gives an instruction wherever PL has a byte left to take (R60). -/
theorem exists_decodeByte_ok {ctx : FramerCtx} (b : Byte) (h : ctx.pst = .pl → ctx.idx.toNat < ctx.len.toNat) :
    ∃ i, decodeByte ctx b = .ok i := by
  cases hp : ctx.pst with
  | h1 => exact ⟨_, decodeByte_h1 ctx b hp⟩
  | h2 => exact ⟨_, decodeByte_h2 ctx b hp⟩
  | cm => exact ⟨_, decodeByte_cm ctx b hp⟩
  | cmd => exact ⟨_, decodeByte_cmd ctx b hp⟩
  | len => exact ⟨_, decodeByte_len ctx b hp⟩
  | pl =>
    have hidx := h hp
    rw [decodeByte_pl ctx b hp]
    split_ifs with hmore hlast
    · exact ⟨_, rfl⟩
    · exact ⟨_, rfl⟩
    · omega
  | ck => exact ⟨_, decodeByte_ck ctx b hp⟩

/-- The row behind a decoded instruction: the first of the table that applies (R78). -/
theorem exists_row_of_decodeByte {ctx : FramerCtx} {b : Byte} {i : Instr} (h : decodeByte ctx b = .ok i) :
    ∃ r, opcodeTable.find? (·.applies ctx b) = some r ∧ i = r.build b := by
  unfold decodeByte at h
  split at h
  · cases h; exact ⟨_, ‹_›, rfl⟩
  · cases h

/-- Settles O8: the row the decoder takes. -/
theorem everyByteMatchesExactlyOneRow : Obligations.EveryByteMatchesExactlyOneRow := by
  intro ctx b hpl
  obtain ⟨i, hi⟩ := exists_decodeByte_ok b hpl
  obtain ⟨r, hr, rfl⟩ := exists_row_of_decodeByte hi
  refine ⟨r, List.mem_of_find?_eq_some hr, by simpa using List.find?_some hr, hi, fun r' hr' happ' hne => ?_⟩
  exact priority_lt_of_find? opcodeTable_pairwise_outranks hr hr' happ' (ne_of_apply_ne Row.mnemonic hne)

end Sys2Proof
end

section
/-! A placed table word runs in the next step (O12), and the opcode table is the state machine of the prose (O34). -/

namespace Sys2Proof.Machine

/-- Settles O34: the step on a byte reads the table, and the table is the state machine. -/
theorem opcodeTableAgreesWithTheStateMachine : Obligations.OpcodeTableAgreesWithTheStateMachine :=
  fun _ b _ hin => (step_input hin).trans (takeByte_eq_feedByte b _)

/-- Outside PL a byte is decoded by `pst` alone, and in LEN by `cmd` too (R48, R78). -/
theorem decodeByte_congr {ctx ctx' : FramerCtx} (b : Byte) (hp : ctx.pst = ctx'.pst)
    (hc : ctx'.pst = .len → ctx.cmd = ctx'.cmd) (hpl : ctx'.pst ≠ .pl) : decodeByte ctx b = decodeByte ctx' b := by
  cases hp' : ctx'.pst with
  | h1 => rw [decodeByte_h1 _ b hp', decodeByte_h1 _ b (hp.trans hp')]
  | h2 => rw [decodeByte_h2 _ b hp', decodeByte_h2 _ b (hp.trans hp')]
  | cm => rw [decodeByte_cm _ b hp', decodeByte_cm _ b (hp.trans hp')]
  | cmd => rw [decodeByte_cmd _ b hp', decodeByte_cmd _ b (hp.trans hp')]
  | len => rw [decodeByte_len _ b hp', decodeByte_len _ b (hp.trans hp'), hc hp']
  | pl => exact (hpl hp').elim
  | ck => rw [decodeByte_ck _ b hp', decodeByte_ck _ b (hp.trans hp')]

/-- No byte is a fixed value of a row of PL, so no table byte is read there (log entry 7). -/
theorem tableContext_pst_ne_pl (b : Byte) : (tableContext b).pst ≠ .pl := by
  unfold tableContext
  split_ifs <;> exact nofun

/-- A placed byte decodes in the framer's context as it does in the table's. -/
theorem decodeByte_placeByte (b : Byte) (s : State) :
    decodeByte (placeByte b s).ctx b = decodeByte (tableContext b) b :=
  decodeByte_congr b rfl (fun hp => if_pos hp) (tableContext_pst_ne_pl b)

theorem step_placeByte {b : Byte} {i : Instr} (h : decodeByte (tableContext b) b = .ok i) (s : State) :
    step (placeByte b s) = exec i { placeByte b s with input := s.input } :=
  stepRunsTheDecodedInstruction.1 (placeByte b s) b s.input i rfl ((decodeByte_placeByte b s).trans h)

theorem step_placeFrame {bs : List Byte} {i : Instr} (h : decodeFrame bs = .ok (i, [])) (s : State) :
    step (placeFrame bs s) = exec i { placeFrame bs s with input := s.input } :=
  stepRunsTheDecodedInstruction.2 (placeFrame bs s) bs s.input i rfl h

theorem eq_ok_of_toOption_eq_some {o : Except DecodeError Instr} {i : Instr} (h : o.toOption = some i) : o = .ok i := by
  cases o <;> cases h
  rfl

/-- Settles O12: a one-byte word is placed as a byte, and a frame's word as a burst. -/
theorem placedTableWordRunsInTheNextStep : Obligations.PlacedTableWordRunsInTheNextStep := by
  intro s nbits w i hd
  unfold decodeTableWord at hd
  unfold State.withFetchWord placeTableWord
  split_ifs at hd ⊢ with hbyte hframe
  · exact ⟨step_placeByte (eq_ok_of_toOption_eq_some hd) s, rfl⟩
  · exact ⟨step_placeFrame (decodeWholeFrame_eq_some.1 hd) s, rfl⟩

end Sys2Proof.Machine
end

section
/-! What each row of the header, command, length and payload states decodes from and does (O13 to O18): the decoder
gives the row that applies, and its meaning is one of the shared operations, said here as a whole next state. -/

namespace Sys2Proof

/-- The decoder gives the one byte row that applies and whose encoding is the byte (R78). -/
theorem decodeByte_of_appliesIn {ctx : FramerCtx} {b : Byte} {i : Instr} (hi : i.isByteRow = true)
    (ha : i.appliesIn ctx = true) (he : encode i = [b]) : decodeByte ctx b = .ok i := by
  obtain ⟨b', he', hd⟩ := decodeByte_complete hi ha
  obtain rfl : b = b' := List.singleton_injective (he.symm.trans he')
  exact hd

namespace Machine

theorem State.moveTo_eq (s : State) (p : ParserState) :
    s.moveTo p = .next { s with pst := p, delivered := s.delivered ++ s.events, events := [] } := rfl

theorem State.framingError_eq (s : State) (d : Discard) : s.framingError d = .next { s with
    pst := .h1, delivered := s.delivered ++ s.events, events := [], notes := s.notes ++ [d] } := rfl

theorem State.recordCommand_eq (s : State) (c : Byte) : s.recordCommand c = .next { s with
    cmd := c, pst := .len, delivered := s.delivered ++ s.events, events := [] } := rfl

theorem State.recordLength_eq (s : State) (n : Byte) : s.recordLength n = .next { s with
    len := n, idx := 0, pst := .pl, delivered := s.delivered ++ s.events, events := [] } := rfl

theorem State.appendPayload_eq {s : State} (h : s.idx.toNat < Config.payloadMax) (b : Byte) (p : ParserState) :
    s.appendPayload b p = .next { s with
      pay := s.pay.set s.idx.toNat b h, idx := s.idx + 1, pst := p,
      delivered := s.delivered ++ s.events, events := [] } :=
  dif_pos h

/-- Settles O13: each of the three rows only moves the framer. -/
theorem headerAndMarkerRowsAdvanceTheFramer : Obligations.HeaderAndMarkerRowsAdvanceTheFramer := fun s =>
  ⟨fun hp => decodeByte_of_appliesIn rfl ((appliesIn_h1Hdr1 _).2 hp) rfl, s.moveTo_eq .h2,
    fun hp => decodeByte_of_appliesIn rfl ((appliesIn_h2Hdr2 _).2 hp) rfl, s.moveTo_eq .cm,
    fun hp => decodeByte_of_appliesIn rfl ((appliesIn_cmMark _).2 hp) rfl, s.moveTo_eq .cmd⟩

/-- Settles O14: H1_IDLE moves the framer to where it is. -/
theorem otherBytesLeaveTheFramerHunting : Obligations.OtherBytesLeaveTheFramerHunting := fun s b =>
  ⟨fun hp hb => decodeByte_of_appliesIn rfl ((appliesIn_h1Idle _ b).2 ⟨hb, hp⟩) rfl, s.moveTo_eq .h1⟩

/-- Settles O15: each of the four error rows is the framing-error action of R202, with its own reason. -/
theorem framingErrorsReturnToHunting : Obligations.FramingErrorsReturnToHunting := fun s b =>
  ⟨fun hp hb => decodeByte_of_appliesIn rfl ((appliesIn_h2Err _ b).2 ⟨hb, hp⟩) rfl,
    s.framingError_eq .framingHdr2,
    fun hp hb => decodeByte_of_appliesIn rfl ((appliesIn_cmErr _ b).2 ⟨hb, hp⟩) rfl,
    s.framingError_eq .framingMarker,
    fun hp hm hk => decodeByte_of_appliesIn rfl ((appliesIn_cmdErr _ b).2 ⟨⟨hm, hk⟩, hp⟩) rfl,
    s.framingError_eq .framingCommand,
    fun hp hm hk => decodeByte_of_appliesIn rfl ((appliesIn_lenErr _ b).2 ⟨hp, hm, hk⟩) rfl,
    s.framingError_eq .framingLength⟩

/-- Settles O16: both rows record their own code. -/
theorem commandRowsRecordTheCode : Obligations.CommandRowsRecordTheCode := fun s =>
  ⟨fun hp => decodeByte_of_appliesIn rfl ((appliesIn_cmdMouse _).2 hp) rfl, s.recordCommand_eq Config.cmdMouse,
    fun hp => decodeByte_of_appliesIn rfl ((appliesIn_cmdKbd _).2 hp) rfl, s.recordCommand_eq Config.cmdKbd⟩

/-- Settles O17: both rows record the length their command mandates. -/
theorem lengthRowsOpenThePayload : Obligations.LengthRowsOpenThePayload := fun s =>
  ⟨fun hp hc => decodeByte_of_appliesIn rfl ((appliesIn_lenMouse _).2 ⟨hp, hc⟩) rfl,
    s.recordLength_eq Config.lenMouse,
    fun hp hc => decodeByte_of_appliesIn rfl ((appliesIn_lenKbd _).2 ⟨hp, hc⟩) rfl,
    s.recordLength_eq Config.lenKbd⟩

/-- Settles O18: both rows store the byte at `idx`, which is in range and so goes up without wrapping. -/
theorem payloadRowsStoreTheByte : Obligations.PayloadRowsStoreTheByte := fun _ b =>
  ⟨fun hp hmore => decodeByte_of_appliesIn rfl ((appliesIn_plByte _ b).2 ⟨hp, hmore⟩) rfl,
    fun hp hlast => decodeByte_of_appliesIn rfl ((appliesIn_plLast _ b).2 ⟨hp, hlast⟩) rfl,
    fun h => ⟨⟨_, State.appendPayload_eq h b .pl, idx_succ h, rfl⟩,
      ⟨_, State.appendPayload_eq h b .ck, idx_succ h, rfl⟩⟩⟩

end Machine
end Sys2Proof
end

section
/-! What moves the framer (O5), and the one transition each byte makes (O6). -/

namespace Sys2Proof.Machine

theorem runSteps_waiting {s : State} (hin : s.input = []) (n : Nat) : runSteps n s = .next s := by
  induction n with
  | zero => rfl
  | succ n ih => rw [runSteps_succ, step_waiting hin, andThen_next, ih]

/-- Settles O5: waiting answers the same state, and the sink's refusal, the one other input that is no byte and no
reset, leaves `pst` alone. -/
theorem onlyBytesOrResetMoveTheFramer : Obligations.OnlyBytesOrResetMoveTheFramer := by
  refine ⟨fun s n hin => runSteps_waiting hin n, fun s t hstep hmoved => ?_⟩
  cases step_next hstep with
  | waiting | sinkStall => exact (hmoved rfl).elim
  | byte b rest hin => exact ⟨_, rest, hin, .inl ⟨b, rfl⟩⟩
  | burst bs rest hin => exact ⟨_, rest, hin, .inr (.inl ⟨bs, rfl⟩)⟩
  | rst rest hin => exact ⟨_, rest, hin, .inr (.inr (.inl rfl))⟩
  | rstDelivering k rest hin => exact ⟨_, rest, hin, .inr (.inr (.inr ⟨k, rfl⟩))⟩

/-- A byte that is taken has been decoded, and its row run. -/
theorem takeByte_next {s t : State} {b : Byte} (h : takeByte b s = .next t) :
    ∃ i, decodeByte s.ctx b = .ok i ∧ exec i s = .next t := by
  unfold takeByte at h
  split at h
  · exact ⟨_, ‹_›, h⟩
  · cases h

/-- Settles O6: the step takes the byte off the input, and no row puts an input back. -/
theorem everyByteIsConsumedExactlyOnce : Obligations.EveryByteIsConsumedExactlyOnce := by
  intro s t b rest hin hstep
  have htake : takeByte b { s with input := rest } = .next t := (step_input hin).symm.trans hstep
  have hfeed : feedByte b { s with input := rest } = .next t := (takeByte_eq_feedByte b _).symm.trans htake
  exact ⟨feedByte_input hfeed, takeByte_next htake⟩

end Sys2Proof.Machine
end

section
/-! A keyboard frame that arrives in H1 (O30): its packet, completed, is the diff or a discard. -/

namespace Sys2Proof.Machine

/-- The verdict on a keyboard packet, with the constant part of its sum added up (R131). -/
theorem validate_kbd_iff (md rsv k0 k1 k2 k3 k4 k5 c : Byte) :
    validate ⟨Config.cmdKbd, Config.lenKbd, [md, rsv, k0, k1, k2, k3, k4, k5], c⟩ = true ↔
      c = 0x0C + md + rsv + k0 + k1 + k2 + k3 + k4 + k5 := by
  have hsum : 0x02 + Config.cmdKbd + Config.lenKbd + byteSum [md, rsv, k0, k1, k2, k3, k4, k5] =
      0x0C + md + rsv + k0 + k1 + k2 + k3 + k4 + k5 := by
    simp [← BitVec.add_assoc]
  rw [validate_iff, hsum, eq_comm]

/-- A keyboard payload fills the buffer. -/
theorem toList_drop_lenKbd (v : Vector Byte Config.payloadMax) : v.toList.drop Config.lenKbd.toNat = [] :=
  List.drop_eq_nil_of_le (by simp)

/-- Settles O30: the frame's packet is a keyboard packet, so it is the diff and a new snapshot, or a discard. -/
theorem keyboardFrameIsRecognizedFromHunting : Obligations.KeyboardFrameIsRecognizedFromHunting := by
  intro s md rsv k0 k1 k2 k3 k4 k5 c hp
  have hpay : #v[md, rsv, k0, k1, k2, k3, k4, k5].toList =
      [md, rsv, k0, k1, k2, k3, k4, k5] ++ s.pay.toList.drop Config.lenKbd.toNat := by
    rw [toList_drop_lenKbd]; rfl
  rw [exec_frame rfl]
  refine (feedBytes_frame hp (.inr ⟨rfl, rfl⟩) rfl c hpay).trans ?_
  unfold completePacket
  by_cases hc : c = 0x0C + md + rsv + k0 + k1 + k2 + k3 + k4 + k5
  · rw [if_pos ((validate_kbd_iff ..).2 hc)]
    dsimp only
    rw [if_pos hc]
    rfl
  · rw [if_neg (mt (validate_kbd_iff ..).1 hc)]
    dsimp only
    rw [if_neg hc]
    rfl

end Sys2Proof.Machine
end

section
/-! Bytes complete in every reachable state, and so do whole frames (O32). -/

namespace Sys2Proof.Machine

/-- The payload in reception is shorter than the buffer (R29, R49). -/
theorem idx_lt_payloadMax {s : State} (hf : s.FrameShape) (hi : s.idx.toNat < s.len.toNat) :
    s.idx.toNat < Config.payloadMax :=
  hi.trans_le (Mandates.le_payloadMax hf)

/-- In a reachable state every byte is taken (R200). -/
theorem feedByte_completes {s : State} (hs : s.Inv) (b : Byte) : ∃ t, feedByte b s = .next t := by
  obtain ⟨-, hpl, hck⟩ := hs
  cases hp : s.pst with
  | h1 | h2 | cm | cmd | len =>
    rw [feedByte, hp]
    dsimp only
    split_ifs <;> exact ⟨_, rfl⟩
  | pl =>
    obtain ⟨hf, hi⟩ := hpl hp
    exact ⟨_, feedByte_payload b hp hi (idx_lt_payloadMax hf hi)⟩
  | ck =>
    obtain ⟨hf, -⟩ := hck hp
    rw [feedByte_ck b hp]
    exact execCkByte_completes b hf

/-- In a reachable state every sequence of bytes is taken to its end. -/
theorem feedBytes_completes {s : State} (hs : s.Inv) (bs : List Byte) : ∃ t, feedBytes bs s = .next t := by
  induction bs generalizing s with
  | nil => exact ⟨s, rfl⟩
  | cons b bs ih =>
    obtain ⟨u, hu⟩ := feedByte_completes hs b
    rw [feedBytes, hu, andThen_next]
    exact ih (feedByte_keeps_inv s u b hs hu)

theorem feedBytes_keeps_inv {s t : State} {bs : List Byte} (hs : s.Inv) (h : feedBytes bs s = .next t) : t.Inv :=
  feedBytes_keeps feedByte_keeps_inv bs hs h

/-- The bytes of a sequence leave the inputs after them (R120). -/
theorem feedBytes_input {s t : State} {bs : List Byte} (h : feedBytes bs s = .next t) : t.input = s.input :=
  feedBytes_keeps (P := fun u => u.input = s.input) (fun _ _ _ hu hb => (feedByte_input hb).trans hu) bs rfl h

/-- Settles O32: a frame is its bytes. -/
theorem framesCompleteInEveryReachableState : Obligations.FramesCompleteInEveryReachableState := by
  intro s i hi hs
  rw [exec_frame hi]
  obtain ⟨t, ht⟩ := feedBytes_completes hs (encode i)
  exact ⟨t, ht, feedBytes_keeps_inv hs ht, feedBytes_input ht⟩

end Sys2Proof.Machine
end

section
/-! Resynchronization (O49): without a byte 0x57 the bound of R118 goes down by one at least with each byte, and by
exactly one with the byte that continues the longest frame. -/

namespace Sys2Proof.Machine

theorem resyncBound_h1 {s : State} (hp : s.pst = .h1) : s.resyncBound = 0 := by rw [State.resyncBound, hp]
theorem resyncBound_h2 {s : State} (hp : s.pst = .h2) : s.resyncBound = 13 := by rw [State.resyncBound, hp]; rfl
theorem resyncBound_cm {s : State} (hp : s.pst = .cm) : s.resyncBound = 12 := by rw [State.resyncBound, hp]; rfl
theorem resyncBound_cmd {s : State} (hp : s.pst = .cmd) : s.resyncBound = 11 := by rw [State.resyncBound, hp]; rfl

theorem resyncBound_len {s : State} (hp : s.pst = .len) {n : Byte} (hn : Mandates s.cmd n) :
    s.resyncBound = n.toNat + 2 := by
  rw [State.resyncBound, hp]
  rcases hn with ⟨hc, rfl⟩ | ⟨hc, rfl⟩ <;> dsimp only <;> rw [hc] <;> rfl

theorem resyncBound_pl {s : State} (hp : s.pst = .pl) : s.resyncBound = s.len.toNat - s.idx.toNat + 1 := by
  rw [State.resyncBound, hp]

theorem resyncBound_ck {s : State} (hp : s.pst = .ck) : s.resyncBound = 1 := by rw [State.resyncBound, hp]

theorem resyncBound_eq_zero_iff {s : State} : s.resyncBound = 0 ↔ s.pst = .h1 := by
  refine ⟨fun h => ?_, resyncBound_h1⟩
  unfold State.resyncBound at h
  split at h
  · assumption
  all_goals omega

/-- In LEN a reachable state has a command code, which mandates a length (R29). -/
theorem exists_mandates {s : State} (hs : s.Inv) (hp : s.pst = .len) : ∃ n, Mandates s.cmd n := by
  obtain ⟨hlen, -, -⟩ := hs
  exact (hlen hp).elim (fun hc => ⟨_, .inl ⟨hc, rfl⟩⟩) (fun hc => ⟨_, .inr ⟨hc, rfl⟩⟩)

theorem resyncBound_le {s : State} (hs : s.Inv) : s.resyncBound ≤ 13 := by
  cases hp : s.pst with
  | h1 => rw [resyncBound_h1 hp]; decide
  | h2 => rw [resyncBound_h2 hp]
  | cm => rw [resyncBound_cm hp]; decide
  | cmd => rw [resyncBound_cmd hp]; decide
  | len =>
    obtain ⟨n, hn⟩ := exists_mandates hs hp
    have h8 : n.toNat ≤ 8 := hn.le_payloadMax
    rw [resyncBound_len hp hn]
    omega
  | pl =>
    obtain ⟨-, hpl, -⟩ := hs
    obtain ⟨hf, -⟩ := hpl hp
    have h8 : s.len.toNat ≤ 8 := Mandates.le_payloadMax hf
    rw [resyncBound_pl hp]
    omega
  | ck => rw [resyncBound_ck hp]; decide

/-- The bound after a stored payload byte: one less, also where the byte is the last. -/
theorem resyncBound_payload {s : State} {b : Byte} {p : ParserState} (hp : s.pst = .pl)
    (hi : s.idx.toNat < Config.payloadMax)
    (h : (s.idx.toNat + 1 < s.len.toNat ∧ p = .pl) ∨ (s.idx.toNat + 1 = s.len.toNat ∧ p = .ck)) :
    State.resyncBound { s.beginStep with pay := s.pay.set s.idx.toNat b hi, idx := s.idx + 1, pst := p } + 1 =
      s.resyncBound := by
  rw [resyncBound_pl hp]
  rcases h with ⟨hmore, rfl⟩ | ⟨hlast, rfl⟩
  · rw [resyncBound_pl rfl, State.beginStep_len, idx_succ hi]
    omega
  · rw [resyncBound_ck rfl]
    omega

/-- A byte other than 0x57 takes one at least off the bound. -/
theorem ByteStep.resyncBound_le {s t : State} {b : Byte} (h : ByteStep s b t) (hb : b ≠ 0x57) :
    t.resyncBound ≤ s.resyncBound - 1 := by
  cases h with
  | move p h =>
    rcases h with ⟨-, hb', -⟩ | ⟨-, -, rfl⟩ | ⟨hp, -, rfl⟩ | ⟨hp, -, rfl⟩
    · exact absurd hb' hb
    · rw [resyncBound_h1 rfl]; exact Nat.zero_le _
    · rw [resyncBound_cm rfl, resyncBound_h2 hp]
    · rw [resyncBound_cmd rfl, resyncBound_cm hp]
  | command hp hc =>
    rw [resyncBound_cmd hp]
    rcases hc with rfl | rfl
    · rw [resyncBound_len rfl (.inl ⟨rfl, rfl⟩)]; decide
    · rw [resyncBound_len rfl (.inr ⟨rfl, rfl⟩)]; decide
  | length hp hn =>
    rw [resyncBound_pl rfl, resyncBound_len hp hn]
    exact Nat.le_refl _
  | payload p hp hi h => exact Nat.le_sub_one_of_lt (resyncBound_payload hp hi h).le
  | framing | mismatch | keyboard | mouse => rw [resyncBound_h1 rfl]; exact Nat.zero_le _

/-- A reachable state takes bytes other than 0x57 to the end, each one at least off the bound. -/
theorem feedBytes_resyncBound_le {s : State} (hs : s.Inv) {bs : List Byte} (hb : 0x57 ∉ bs) :
    ∃ t, feedBytes bs s = .next t ∧ t.resyncBound ≤ s.resyncBound - bs.length := by
  induction bs generalizing s with
  | nil => exact ⟨s, rfl, Nat.le_refl _⟩
  | cons b bs ih =>
    obtain ⟨hb0, hbs⟩ := List.ne_and_not_mem_of_not_mem_cons hb
    obtain ⟨u, hu⟩ := feedByte_completes hs b
    obtain ⟨t, ht, hle⟩ := ih (feedByte_keeps_inv s u b hs hu) hbs
    have hu_le : u.resyncBound ≤ s.resyncBound - 1 := (feedByte_next hu).resyncBound_le (Ne.symm hb0)
    refine ⟨t, by rw [feedBytes, hu, andThen_next, ht], ?_⟩
    rw [List.length_cons]
    omega

/-- As many bytes other than 0x57 as the bound bring the framer back to H1 (R118). -/
theorem feedBytes_resync {s : State} (hs : s.Inv) {bs : List Byte} (hb : 0x57 ∉ bs)
    (hl : s.resyncBound ≤ bs.length) : ∃ t, feedBytes bs s = .next t ∧ t.pst = .h1 := by
  obtain ⟨t, ht, hle⟩ := feedBytes_resyncBound_le hs hb
  exact ⟨t, ht, resyncBound_eq_zero_iff.1 (by omega)⟩

/-- Before the last byte of the bound, the byte that continues the longest frame takes just one off the bound. -/
theorem exists_byte_resyncBound_succ {s : State} (hs : s.Inv) (h : 1 < s.resyncBound) :
    ∃ b t, b ≠ 0x57 ∧ feedByte b s = .next t ∧ t.resyncBound + 1 = s.resyncBound := by
  cases hp : s.pst with
  | h1 => rw [resyncBound_h1 hp] at h; omega
  | h2 => exact ⟨_, _, by decide, feedByte_hdr2 hp, by rw [resyncBound_cm rfl, resyncBound_h2 hp]⟩
  | cm => exact ⟨_, _, by decide, feedByte_marker hp, by rw [resyncBound_cmd rfl, resyncBound_cm hp]⟩
  | cmd =>
    refine ⟨_, _, by decide, feedByte_command hp (.inr rfl), ?_⟩
    rw [resyncBound_len rfl (.inr ⟨rfl, rfl⟩), resyncBound_cmd hp]
    rfl
  | len =>
    obtain ⟨n, hn⟩ := exists_mandates hs hp
    refine ⟨n, _, ?_, feedByte_length hp hn, ?_⟩
    · rcases hn with ⟨-, rfl⟩ | ⟨-, rfl⟩ <;> decide
    · rw [resyncBound_pl rfl, resyncBound_len hp hn]
      rfl
  | pl =>
    obtain ⟨-, hpl, -⟩ := hs
    obtain ⟨hf, hi⟩ := hpl hp
    have hi8 := idx_lt_payloadMax hf hi
    refine ⟨0x00, _, by decide, feedByte_payload _ hp hi hi8, resyncBound_payload hp hi8 ?_⟩
    split_ifs with hlast
    · exact .inr ⟨hlast, rfl⟩
    · exact .inl ⟨by omega, rfl⟩
  | ck => rw [resyncBound_ck hp] at h; omega

/-- The bound is tight: one byte fewer can leave the framer outside H1 (R118). -/
theorem exists_bytes_not_resync (n : Nat) {s : State} (hs : s.Inv) (hn : s.resyncBound = n + 1) :
    ∃ bs t, 0x57 ∉ bs ∧ bs.length = n ∧ feedBytes bs s = .next t ∧ t.pst ≠ .h1 := by
  induction n generalizing s with
  | zero => exact ⟨[], s, List.not_mem_nil, rfl, rfl, fun hp => by rw [resyncBound_h1 hp] at hn; cases hn⟩
  | succ n ih =>
    obtain ⟨b, u, hb, hu, hub⟩ := exists_byte_resyncBound_succ hs (by omega)
    obtain ⟨bs, t, hbs, hl, ht, hpt⟩ := ih (feedByte_keeps_inv s u b hs hu) (by omega)
    exact ⟨b :: bs, t, List.not_mem_cons_of_ne_of_not_mem hb.symm hbs, congrArg Nat.succ hl,
      by rw [feedBytes, hu, andThen_next, ht], hpt⟩

/-- Settles O49: the bound is a measure that every byte but 0x57 takes down, and a frame's own bytes just by one. -/
theorem resynchronizationIsBounded : Obligations.ResynchronizationIsBounded := by
  intro s hs
  simp only [runBytes_eq_feedBytes]
  refine ⟨resyncBound_le hs, fun bs hb hl => feedBytes_resync hs hb hl, fun hp => ?_⟩
  obtain ⟨n, hn⟩ := Nat.exists_eq_succ_of_ne_zero (mt resyncBound_eq_zero_iff.1 hp)
  obtain ⟨bs, t, hbs, hl, ht, hpt⟩ := exists_bytes_not_resync n hs hn
  exact ⟨bs, t, hbs, by rw [hl, hn], ht, hpt⟩

end Sys2Proof.Machine
end

section
/-! A packet needs all the bytes of its frame (O51), so a frame that arrives in the middle of a header is lost (O31).
`State.bytesToPacket` counts the bytes to the end of the shortest frame that the state still admits. -/

namespace Sys2Proof.Machine

/-- No packet has completed from `s` to `t`: no event, no checksum mismatch, and the snapshot is as it was. -/
structure State.NoPacket (s t : State) : Prop where
  observed : t.observed = s.observed
  snapMod : t.snapMod = s.snapMod
  snapKey : t.snapKey = s.snapKey
  mismatches : t.notes.count .checksumMismatch = s.notes.count .checksumMismatch

theorem State.NoPacket.refl (s : State) : s.NoPacket s := ⟨rfl, rfl, rfl, rfl⟩

theorem State.NoPacket.trans {s t u : State} (hst : s.NoPacket t) (htu : t.NoPacket u) : s.NoPacket u :=
  ⟨htu.observed.trans hst.observed, htu.snapMod.trans hst.snapMod, htu.snapKey.trans hst.snapKey,
    htu.mismatches.trans hst.mismatches⟩

/-- A packet completes at the CK byte only (R115). -/
theorem ByteStep.noPacket {s t : State} {b : Byte} (h : ByteStep s b t) (hp : s.pst ≠ .ck) : s.NoPacket t := by
  have hobserved : t.events = [] → t.observed = s.observed := fun he => by rw [h.observed_eq, he, List.append_nil]
  cases h with
  | move | command | length | payload => exact ⟨hobserved rfl, rfl, rfl, rfl⟩
  | framing d hd =>
    refine ⟨hobserved rfl, rfl, rfl, ?_⟩
    have hne : d ≠ .checksumMismatch := by
      rcases hd with ⟨-, -, rfl⟩ | ⟨-, -, rfl⟩ | ⟨-, -, -, rfl⟩ | ⟨-, -, -, rfl⟩ <;> decide
    simp [List.count_append, hne]
  | mismatch _ hck | keyboard _ _ _ _ hck | mouse _ _ _ _ _ _ hck => exact absurd hck hp

/-- The fewest bytes that can complete a packet from here: those of a mouse frame, or of the payload in reception. -/
def State.bytesToPacket (s : State) : Nat :=
  match s.pst with
  | .h1 => Config.lenMouse.toNat + 6
  | .h2 => Config.lenMouse.toNat + 5
  | .cm => Config.lenMouse.toNat + 4
  | .cmd => Config.lenMouse.toNat + 3
  | .len => Config.lenMouse.toNat + 2
  | .pl => s.len.toNat - s.idx.toNat + 1
  | .ck => 1

theorem bytesToPacket_h1 {s : State} (hp : s.pst = .h1) : s.bytesToPacket = 11 := by rw [State.bytesToPacket, hp]; rfl

/-- No byte before the CK byte brings the packet nearer by more than one. -/
theorem ByteStep.bytesToPacket_le {s t : State} {b : Byte} (h : ByteStep s b t) (hp : s.pst ≠ .ck) :
    s.bytesToPacket ≤ t.bytesToPacket + 1 := by
  cases h with
  | move p h =>
    rcases h with ⟨hs, -, rfl⟩ | ⟨hs, -, rfl⟩ | ⟨hs, -, rfl⟩ | ⟨hs, -, rfl⟩ <;> simp [State.bytesToPacket, hs]
  | framing d h =>
    rcases h with ⟨hs, -⟩ | ⟨hs, -⟩ | ⟨hs, -⟩ | ⟨hs, -⟩ <;> simp [State.bytesToPacket, hs]
  | command hs => simp [State.bytesToPacket, hs]
  | length hs hn => rcases hn with ⟨-, rfl⟩ | ⟨-, rfl⟩ <;> simp [State.bytesToPacket, hs]
  | payload p hs hi h =>
    have hsucc := idx_succ hi
    rcases h with ⟨hmore, rfl⟩ | ⟨hlast, rfl⟩
    · simp only [State.bytesToPacket, hs, State.beginStep_len]
      omega
    · simp only [State.bytesToPacket, hs]
      omega
  | mismatch _ hck | keyboard _ _ _ _ hck | mouse _ _ _ _ _ _ hck => exact absurd hck hp

/-- Fewer bytes than a packet needs are taken to the end, and no packet completes. -/
theorem feedBytes_noPacket {s : State} (hs : s.Inv) {bs : List Byte} (hl : bs.length < s.bytesToPacket) :
    ∃ t, feedBytes bs s = .next t ∧ s.NoPacket t := by
  induction bs generalizing s with
  | nil => exact ⟨s, rfl, .refl s⟩
  | cons b bs ih =>
    rw [List.length_cons] at hl
    have hp : s.pst ≠ .ck := fun hp => by simp [State.bytesToPacket, hp] at hl
    obtain ⟨u, hu⟩ := feedByte_completes hs b
    have hle : s.bytesToPacket ≤ u.bytesToPacket + 1 := (feedByte_next hu).bytesToPacket_le hp
    obtain ⟨t, ht, hut⟩ := ih (feedByte_keeps_inv s u b hs hu) (by omega)
    exact ⟨t, by rw [feedBytes, hu, andThen_next, ht], ((feedByte_next hu).noPacket hp).trans hut⟩

/-- From H1 ten bytes complete no packet (R117). -/
theorem feedBytes_h1_noPacket {s : State} (hp : s.pst = .h1) {bs : List Byte} (hl : bs.length ≤ 10) :
    ∃ t, feedBytes bs s = .next t ∧ s.NoPacket t :=
  feedBytes_noPacket (inv_of_h1 hp) (by rw [bytesToPacket_h1 hp]; omega)

/-- Settles O51: the shortest frame has eleven bytes. -/
theorem packetsCompleteAtMostOnceInElevenBytes : Obligations.PacketsCompleteAtMostOnceInElevenBytes := by
  intro s bs hp hl
  obtain ⟨t, ht, hquiet⟩ := feedBytes_h1_noPacket hp hl
  rw [runBytes_eq_feedBytes]
  exact ⟨t, ht, hquiet.observed, hquiet.snapMod, hquiet.snapKey, hquiet.mismatches⟩

/-- Past the first header byte and before the payload, HDR1 is a framing error (R104, R106, R109, R112). -/
theorem feedByte_hdr1_midHeader {s : State} (hp : s.pst = .h2 ∨ s.pst = .cm ∨ s.pst = .cmd ∨ s.pst = .len) :
    ∃ d, feedByte Config.hdr1 s = s.framingError d := by
  rcases hp with hp | hp | hp | hp <;> rw [feedByte, hp]
  · exact ⟨.framingHdr2, rfl⟩
  · exact ⟨.framingMarker, rfl⟩
  · exact ⟨.framingCommand, rfl⟩
  · exact ⟨.framingLength, by simp [execLenErr]⟩

/-- A frame is HDR1, then bytes other than 0x57 to the end of its header, then a payload and a checksum byte. -/
theorem encode_frame {i : Instr} (hi : i.isByteRow = false) :
    ∃ header body, encode i = Config.hdr1 :: (header ++ body) ∧
      0x57 ∉ header ∧ header.length = 4 ∧ body.length ≤ 9 := by
  cases i with
  | frameMouse =>
    exact ⟨[Config.hdr2, Config.marker, Config.cmdMouse, Config.lenMouse], _, rfl, by decide, rfl, by simp⟩
  | frameKbd =>
    exact ⟨[Config.hdr2, Config.marker, Config.cmdKbd, Config.lenKbd], _, rfl, by decide, rfl, by simp⟩
  | _ => cases hi

/-- Without 0x57 the framer goes on hunting, and no packet completes. -/
theorem feedBytes_h1_idle {s : State} (hp : s.pst = .h1) {bs : List Byte} (hb : 0x57 ∉ bs) (hl : bs.length ≤ 10) :
    ∃ t, feedBytes bs s = .next t ∧ t.pst = .h1 ∧ s.NoPacket t := by
  have hbound : s.resyncBound ≤ bs.length := by rw [resyncBound_h1 hp]; exact Nat.zero_le _
  obtain ⟨t, ht, hpt⟩ := feedBytes_resync (inv_of_h1 hp) hb hbound
  obtain ⟨u, hu, hquiet⟩ := feedBytes_h1_noPacket hp hl
  obtain rfl : u = t := Host.Outcome.next.inj (hu.symm.trans ht)
  exact ⟨u, hu, hpt, hquiet⟩

/-- Settles O31: the frame's first byte is dropped, the rest of its header leaves the framer hunting, and what is left
is too short for a packet. -/
theorem frameArrivingMidHeaderIsLost : Obligations.FrameArrivingMidHeaderIsLost := by
  intro s i hi hp
  obtain ⟨header, body, hencode, hheader, hlen, hbody⟩ := encode_frame hi
  obtain ⟨d, hdrop⟩ := feedByte_hdr1_midHeader hp
  have hck : s.pst ≠ .ck := by rcases hp with hp | hp | hp | hp <;> rw [hp] <;> decide
  have hsu : s.NoPacket ((s.beginStep.setPst .h1).note d) := (feedByte_next hdrop).noPacket hck
  obtain ⟨v, hv, hpv, huv⟩ := feedBytes_h1_idle (s := (s.beginStep.setPst .h1).note d) rfl hheader (by omega)
  obtain ⟨t, ht, hvt⟩ := feedBytes_h1_noPacket hpv (bs := body) (by omega)
  have hquiet : s.NoPacket t := (hsu.trans huv).trans hvt
  refine ⟨t, ?_, hquiet.observed, hquiet.snapMod, hquiet.snapKey, hquiet.mismatches⟩
  rw [exec_frame hi, hencode, feedBytes, hdrop, State.framingError, andThen_next, feedBytes_append, hv,
    andThen_next, ht]

end Sys2Proof.Machine
end

section
/-! The checksum verdict over all packets: what it compares (O25, O26), and which changes of a valid packet it detects
(O27) and misses (O28). -/

namespace Sys2Proof.Machine

/-- Settles O25: the 8-bit sum of the verdict is the low byte of the exact sum. -/
theorem validateComparesTheLowByteOfTheSum : Obligations.ValidateComparesTheLowByteOfTheSum :=
  validate_iff_toNat

/-- The verdict, with the constants before the payload added up modulo 256 (R131). -/
theorem validate_iff_of_constant {command length : Byte} {k : Nat}
    (hk : (0x57 + 0xAB + 0x00 + command.toNat + length.toNat) % 256 = k % 256) (payload : List Byte) (c : Byte) :
    validate ⟨command, length, payload, c⟩ = true ↔ (k + (payload.map BitVec.toNat).sum) % 256 = c.toNat := by
  rw [validate_iff_toNat, Nat.add_mod, hk, ← Nat.add_mod]

/-- Settles O26: the constants are summed for each frame type, and the verdict is O25's. -/
theorem checksumConstantsFollowTheFrameType : Obligations.ChecksumConstantsFollowTheFrameType := by
  refine ⟨rfl, fun payload c => ⟨?mouse, ?keyboard⟩, ?zeroMouse, ?zeroKeyboard⟩
  case mouse => exact validate_iff_of_constant (by rfl) payload c
  case keyboard => exact validate_iff_of_constant (by rfl) payload c
  case zeroMouse => exact (validate_mouse_iff ..).2 rfl
  case zeroKeyboard => exact (validate_kbd_iff ..).2 rfl

/-- With another payload and another checksum byte a valid packet stays valid exactly if the checksum byte changed as
the payload sum did. -/
theorem validate_changed_iff {p : Packet} (hp : validate p = true) (q : List Byte) (c : Byte) :
    validate { p with payload := q, checksum := c } = true ↔
      c - p.checksum = byteSum q - byteSum p.payload := by
  have hsum := (validate_iff p).1 hp
  calc validate { p with payload := q, checksum := c } = true
    _ ↔ 0x02 + p.command + p.length + byteSum q = c := validate_iff _
    _ ↔ c - p.checksum = byteSum q - byteSum p.payload := by
      rw [← hsum, eq_comm, sub_eq_iff_eq_add', add_add_sub_cancel]

/-- A valid packet stays valid with another payload exactly if the payload sum is the same. -/
theorem validate_payload_iff {p : Packet} (hp : validate p = true) (q : List Byte) :
    validate { p with payload := q } = true ↔ byteSum q = byteSum p.payload := by
  rw [validate_changed_iff hp, sub_self, eq_comm, sub_eq_zero]

/-- A valid packet has the only checksum byte that is right for it. -/
theorem validate_checksum_iff {p : Packet} (hp : validate p = true) (c : Byte) :
    validate { p with checksum := c } = true ↔ c = p.checksum := by
  rw [validate_changed_iff hp, sub_self, sub_eq_zero]

theorem byteSum_set_eq_iff (bs : List Byte) (i : Nat) (h : i < bs.length) (v : Byte) :
    byteSum (bs.set i v) = byteSum bs ↔ v = bs[i] := by
  rw [byteSum_set bs i h, sub_add_eq_add_sub, sub_eq_iff_eq_add, add_right_inj]

theorem flipBit_ne (b : Byte) {k : Nat} (hk : k < 8) : b ^^^ (1#8 <<< k) ≠ b := by
  have hbit : ∀ k < 8, 1#8 <<< k ≠ 0#8 := by decide
  rw [Ne, xor_left_eq_self_iff]
  exact hbit k hk

/-- Settles O27: one flipped bit changes its byte, and so the payload sum or the checksum byte alone. -/
theorem singleBitFlipsAreDetected : Obligations.SingleBitFlipsAreDetected := by
  intro p k hk hp
  refine ⟨fun i h => ?payload, ?checksum⟩
  case payload =>
    rw [← Bool.not_eq_true, validate_payload_iff hp, byteSum_set_eq_iff]
    exact flipBit_ne _ hk
  case checksum =>
    rw [← Bool.not_eq_true, validate_checksum_iff hp]
    exact flipBit_ne _ hk

/-- What one byte gains and another loses leaves the sum as it was. -/
theorem byteSum_set_add_set_sub (bs : List Byte) {i j : Nat} (hi : i < bs.length) (hj : j < bs.length) (d : Byte)
    (hij : i ≠ j) : byteSum ((bs.set i (bs[i] + d)).set j (bs[j] - d)) = byteSum bs := by
  rw [byteSum_set _ j (by simpa using hj), byteSum_set _ i hi, List.getElem_set_ne hij]
  ring

/-- A congruence of exact sums is an equation of 8-bit sums. -/
theorem byteSum_eq_add_iff (xs ys : List Byte) (d : Byte) : byteSum xs = byteSum ys + d ↔
    (xs.map BitVec.toNat).sum % 256 = ((ys.map BitVec.toNat).sum + d.toNat) % 256 := by
  rw [← BitVec.toNat_inj, BitVec.toNat_add, byteSum_toNat, byteSum_toNat]
  exact Eq.congr_right (Nat.mod_add_mod ..)

/-- Settles O28: each of the three changes alters the payload sum and the checksum byte alike. -/
theorem compensatedChangesAreNotDetected : Obligations.CompensatedChangesAreNotDetected := by
  intro p hp
  refine ⟨fun q hq => ?permuted, fun i j hi hj d hij => ?moved, fun q d hq => ?matched⟩
  case permuted => exact (validate_payload_iff hp q).2 (byteSum_perm hq)
  case moved => exact (validate_payload_iff hp _).2 (byteSum_set_add_set_sub p.payload hi hj d hij)
  case matched =>
    have hsum : byteSum q = byteSum p.payload + d := (byteSum_eq_add_iff ..).2 hq
    rw [validate_changed_iff hp, hsum, add_sub_cancel_left, add_sub_cancel_left]

end Sys2Proof.Machine
end

section
/-! What becomes of a completed packet that no translator gets: a checksum that fails discards it (O21), and a command
code that is neither of the two ends the run, in no reachable state (O24). -/

namespace Sys2Proof.Machine

/-- A packet that fails the verdict only leaves its note (R141). -/
theorem completePacket_of_invalid {p : Packet} (hp : ¬ validate p = true) (s : State) :
    completePacket p s = .next (s.note .checksumMismatch) :=
  if_neg hp

/-- A packet that passes the verdict is dispatched in the same step (R140). -/
theorem completePacket_of_valid {p : Packet} (hp : validate p = true) (s : State) :
    completePacket p s = dispatch p s :=
  if_pos hp

/-- No translator takes another command code (R143). -/
theorem dispatch_of_unknown {p : Packet} (hm : p.command ≠ Config.cmdMouse) (hk : p.command ≠ Config.cmdKbd)
    (s : State) : dispatch p s = .fault .invariantViolation := by
  rw [dispatch, if_neg hk, if_neg hm]

/-- In a reachable state the step on a byte completes (R200). -/
theorem step_byte_completes {s : State} (hs : s.Inv) {b : Byte} {rest : List Input}
    (hin : s.input = .byte b :: rest) : ∃ t, step s = .next t := by
  rw [opcodeTableAgreesWithTheStateMachine s b rest hin]
  exact feedByte_completes (s := { s with input := rest }) hs b

/-- Settles O21: the packet of the CK byte fails the verdict. -/
theorem checksumMismatchDiscardsThePacket : Obligations.ChecksumMismatchDiscardsThePacket := fun _ b hlen hsum =>
  (execCkByte_eq b hlen).trans (completePacket_of_invalid (mt (validate_iff_toNat _).1 hsum) _)

/-- Settles O24: the packet of the CK byte passes the verdict and has no translator; from the invariant the step has a
next state, so it raises no fault at all. -/
theorem unknownCommandAtDispatchFaults : Obligations.UnknownCommandAtDispatchFaults := by
  refine ⟨fun s b hlen hm hk hsum => ?faults, fun s b rest hs hin => ?unreachable⟩
  case faults =>
    calc exec (.ckByte b) s
      _ = completePacket ⟨s.cmd, s.len, s.pay.toList.take s.len.toNat, b⟩ (s.beginStep.setPst .h1) :=
        execCkByte_eq b hlen
      _ = dispatch ⟨s.cmd, s.len, s.pay.toList.take s.len.toNat, b⟩ (s.beginStep.setPst .h1) :=
        completePacket_of_valid ((validate_iff_toNat _).2 hsum) _
      _ = .fault .invariantViolation := dispatch_of_unknown hm hk _
  case unreachable =>
    obtain ⟨t, ht⟩ := step_byte_completes hs hin
    rw [ht]
    exact nofun

end Sys2Proof.Machine
end

section
/-! The sink's view of the held keys (O42): what a diff does to it, and that every step but a reset keeps it the
snapshot's. -/

namespace Sys2Proof.Machine

/-- The loop from its first slot on: the keys of the one array that are no keys of the other (R151). -/
theorem mem_keysOnlyIn_iff_inKeys (other slots : List Byte) (k : Byte) :
    k ∈ keysOnlyIn other [] slots ↔ inKeys k slots ∧ ¬ inKeys k other := by
  rw [mem_keysOnlyIn]
  unfold inKeys
  have hnil : k ∉ [] := List.not_mem_nil
  tauto

theorem heldAfter_append (k : Byte) (held : Bool) (xs ys : List Event) :
    heldAfter k held (xs ++ ys) = heldAfter k (heldAfter k held xs) ys := by
  induction xs generalizing held with
  | nil => rfl
  | cons e xs ih => cases e <;> exact ih _

theorem alternates_append (k : Byte) (held : Bool) (xs ys : List Event) :
    alternates k held (xs ++ ys) ↔ alternates k held xs ∧ alternates k (heldAfter k held xs) ys := by
  induction xs generalizing held with
  | nil => exact (true_and _).symm.to_iff
  | cons e xs ih =>
    cases e with
    | keyUp j | keyDown j =>
      by_cases hj : j = k <;> simp [alternates, heldAfter, hj, ih, and_assoc]
    | mouse r => exact ih held

theorem heldAfter_cons_of_onKev {e : Event} {j : Byte} {pressed : Bool} (he : e.onKev = some (j, pressed)) (k : Byte)
    (held : Bool) (es : List Event) :
    heldAfter k held (e :: es) = heldAfter k (if j = k then pressed else held) es := by
  cases e <;> cases he <;> rfl

theorem alternates_cons_of_onKev {e : Event} {j : Byte} {pressed : Bool} (he : e.onKev = some (j, pressed)) (k : Byte)
    (held : Bool) (es : List Event) :
    alternates k held (e :: es) ↔ (j = k → held = !pressed) ∧ alternates k (if j = k then pressed else held) es := by
  cases e <;> cases he <;> by_cases hj : j = k <;> simp [alternates, hj]

section
variable {f : Byte → Event} {pressed : Bool} (hf : ∀ j, (f j).onKev = some (j, pressed))
include hf

/-! One phase of the diff: an event of one kind for each key of a list. -/

theorem heldAfter_map (k : Byte) (held : Bool) (ks : List Byte) :
    heldAfter k held (ks.map f) = if k ∈ ks then pressed else held := by
  induction ks generalizing held with
  | nil => rfl
  | cons j ks ih =>
    rw [List.map_cons, heldAfter_cons_of_onKev (hf j), ih]
    by_cases hj : j = k
    · simp [hj]
    · simp [hj, Ne.symm hj]

theorem alternates_map {k : Byte} {held : Bool} {ks : List Byte} (hks : ks.Nodup) (hk : k ∈ ks → held = !pressed) :
    alternates k held (ks.map f) := by
  induction ks generalizing held with
  | nil => trivial
  | cons j ks ih =>
    obtain ⟨hj, hks⟩ := List.nodup_cons.1 hks
    refine (alternates_cons_of_onKev (hf j) ..).2 ⟨fun h => hk (h ▸ List.mem_cons_self), ih hks fun hmem => ?_⟩
    have hne : j ≠ k := fun h => hj (h ▸ hmem)
    rw [if_neg hne]
    exact hk (List.mem_cons_of_mem j hmem)

end

/-- After the diff the keys of the new report are held (R160). -/
theorem heldAfter_keyDiff {k : Byte} {held : Bool} {old : List Byte} (h : held = true ↔ inKeys k old)
    (new : List Byte) : heldAfter k held (keyDiff old new) = true ↔ inKeys k new := by
  rw [keyDiff, releases, presses, heldAfter_append, heldAfter_map (f := .keyUp) fun _ => rfl,
    heldAfter_map (f := .keyDown) fun _ => rfl]
  have hreleased := mem_keysOnlyIn_iff_inKeys new old k
  have hpressed := mem_keysOnlyIn_iff_inKeys old new k
  split_ifs with hdown hup
  · exact iff_of_true rfl (hpressed.1 hdown).1
  · exact iff_of_false not_false (hreleased.1 hup).2
  · tauto

/-- The diff releases only held keys and presses only keys that are up, each key once (R152, R153, R160). -/
theorem alternates_keyDiff {k : Byte} {held : Bool} {old : List Byte} (h : held = true ↔ inKeys k old)
    (new : List Byte) : alternates k held (keyDiff old new) := by
  refine (alternates_append ..).2
    ⟨alternates_map (pressed := false) (fun _ => rfl) (nodup_keysOnlyIn ..) fun hk => ?released,
      alternates_map (pressed := true) (fun _ => rfl) (nodup_keysOnlyIn ..) fun hk => ?pressed⟩
  case released => exact h.2 ((mem_keysOnlyIn_iff_inKeys ..).1 hk).1
  case pressed =>
    have hup : ¬ inKeys k old := ((mem_keysOnlyIn_iff_inKeys ..).1 hk).2
    have hheld : held = false := Bool.eq_false_iff.2 (mt h.1 hup)
    rw [releases, heldAfter_map (f := .keyUp) fun _ => rfl, hheld, ite_self]
    rfl

theorem ByteStep.keeps_sinkInStep {s t : State} {b : Byte} (h : ByteStep s b t) (hs : s.SinkInStep) :
    t.SinkInStep := by
  intro k
  obtain ⟨halt, hheld⟩ := hs k
  rw [h.observed_eq, alternates_append, heldAfter_append]
  cases h with
  | keyboard => exact ⟨⟨halt, alternates_keyDiff hheld _⟩, heldAfter_keyDiff hheld _⟩
  | move | framing | command | length | payload | mismatch | mouse => exact ⟨⟨halt, trivial⟩, hheld⟩

theorem feedBytes_keeps_sinkInStep {bs : List Byte} {s t : State} (hs : s.SinkInStep)
    (h : feedBytes bs s = .next t) : t.SinkInStep :=
  feedBytes_keeps (fun _ _ _ hu hb => (feedByte_next hb).keeps_sinkInStep hu) bs hs h

theorem sinkInStep_reset : State.reset.SinkInStep := fun k => by
  simp [State.reset, State.observed, alternates, heldAfter, inKeys]

theorem step_keeps_sinkInStep {s t : State} (hs : s.SinkInStep) (h : step s = .next t)
    (hrst : s.input.head? ≠ some .rst) (hcut : ∀ k, s.input.head? ≠ some (.rstDelivering k)) : t.SinkInStep := by
  cases step_next h with
  | waiting => exact hs
  | byte _ _ _ hb => exact hb.keeps_sinkInStep hs
  | burst _ rest _ hbs => exact feedBytes_keeps_sinkInStep (s := { s with input := rest }) hs hbs
  | rst _ hin => exact absurd (by rw [hin]; rfl) hrst
  | rstDelivering k _ hin => exact absurd (by rw [hin]; rfl) (hcut k)
  | sinkStall => exact hs

/-- Settles O42: the law holds at reset, and a diff takes the sink from the keys of the old snapshot to those of the
new one. -/
theorem sinkViewFollowsTheReports : Obligations.SinkViewFollowsTheReports :=
  ⟨sinkInStep_reset, fun _ _ => step_keeps_sinkInStep⟩

end Sys2Proof.Machine
end

section
/-! The two phases of the diff (O35, O36): the loop over the slots, the keys it gives and that it gives each once; and
that no key is in both phases (O37). -/

namespace Sys2Proof.Machine

theorem keysOnlyIn_cons_of_pos {other seen : List Byte} {j : Byte}
    (h : j ≠ Config.noKey ∧ j ∉ other ∧ j ∉ seen) (slots : List Byte) :
    keysOnlyIn other seen (j :: slots) = j :: keysOnlyIn other (seen ++ [j]) slots :=
  if_pos h

theorem keysOnlyIn_cons_of_neg {other seen : List Byte} {j : Byte}
    (h : ¬(j ≠ Config.noKey ∧ j ∉ other ∧ j ∉ seen)) (slots : List Byte) :
    keysOnlyIn other seen (j :: slots) = keysOnlyIn other (seen ++ [j]) slots :=
  if_neg h

/-- The body of the loop of R152 and R153 at slot `i`: the slot's key, where there is an event for it. -/
def keyAtSlot (other seen slots : List Byte) (i : Fin slots.length) : Option Byte :=
  if slots[i] ≠ Config.noKey ∧ slots[i] ∉ other ∧ slots[i] ∉ seen ++ slots.take i then some slots[i] else none

theorem keyAtSlot_zero (other seen : List Byte) (j : Byte) (slots : List Byte) :
    keyAtSlot other seen (j :: slots) (0 : Fin (slots.length + 1)) =
      if j ≠ Config.noKey ∧ j ∉ other ∧ j ∉ seen then some j else none := by
  simp [keyAtSlot]

theorem keyAtSlot_succ (other seen : List Byte) (j : Byte) (slots : List Byte) (i : Fin slots.length) :
    keyAtSlot other seen (j :: slots) i.succ = keyAtSlot other (seen ++ [j]) slots i := by
  simp [keyAtSlot]

/-- The recursion over the slots is the loop over the slot numbers. -/
theorem keysOnlyIn_eq_filterMap (other seen slots : List Byte) :
    keysOnlyIn other seen slots = (List.finRange slots.length).filterMap (keyAtSlot other seen slots) := by
  induction slots generalizing seen with
  | nil => rfl
  | cons j slots ih =>
    have htail : (List.finRange slots.length).filterMap (keyAtSlot other seen (j :: slots) ∘ Fin.succ) =
        keysOnlyIn other (seen ++ [j]) slots :=
      (List.filterMap_congr fun i _ => keyAtSlot_succ other seen j slots i).trans (ih _).symm
    show _ = (List.finRange (slots.length + 1)).filterMap _
    rw [List.finRange_succ, List.filterMap_cons, keyAtSlot_zero, List.filterMap_map, htail]
    by_cases hj : j ≠ Config.noKey ∧ j ∉ other ∧ j ∉ seen
    · rw [keysOnlyIn_cons_of_pos hj, if_pos hj]
    · rw [keysOnlyIn_cons_of_neg hj, if_neg hj]

/-- One phase of the diff over a slot array is the loop over its slot numbers. -/
theorem map_keysOnlyIn_toList {n : Nat} (v : Vector Byte n) (other : List Byte) (f : Byte → Event) :
    (keysOnlyIn other [] v.toList).map f = (List.finRange n).filterMap (fun i : Fin n =>
      if v[i] ≠ Config.noKey ∧ v[i] ∉ other ∧ v[i] ∉ v.toList.take i.val then some (f v[i]) else none) := by
  obtain ⟨⟨slots⟩, rfl⟩ := v
  have hloop := congrArg (List.map f) (keysOnlyIn_eq_filterMap other [] slots)
  rw [List.map_filterMap] at hloop
  refine hloop.trans (List.filterMap_congr fun i _ => ?_)
  exact apply_ite (Option.map f) _ _ _

theorem keyUp_mem_releases_iff (old new : List Byte) (k : Byte) :
    .keyUp k ∈ releases old new ↔ inKeys k old ∧ ¬ inKeys k new := by
  rw [keyUp_mem_releases, mem_keysOnlyIn_iff_inKeys]

theorem keyDown_mem_presses_iff (old new : List Byte) (k : Byte) :
    .keyDown k ∈ presses old new ↔ inKeys k new ∧ ¬ inKeys k old := by
  rw [keyDown_mem_presses, mem_keysOnlyIn_iff_inKeys]

theorem nodup_releases (old new : List Byte) : (releases old new).Nodup :=
  (nodup_keysOnlyIn new [] old).map fun _ _ h => Event.keyUp.inj h

theorem nodup_presses (old new : List Byte) : (presses old new).Nodup :=
  (nodup_keysOnlyIn old [] new).map fun _ _ h => Event.keyDown.inj h

/-- Settles O35: the loop over the old slots. -/
theorem releasesAreTheKeysThatLeft : Obligations.ReleasesAreTheKeysThatLeft := fun old new =>
  ⟨map_keysOnlyIn_toList old new.toList .keyUp, keyUp_mem_releases_iff _ _, nodup_releases _ _⟩

/-- Settles O36: the loop over the new slots. -/
theorem pressesAreTheKeysThatCame : Obligations.PressesAreTheKeysThatCame := fun old new =>
  ⟨map_keysOnlyIn_toList new old.toList .keyDown, keyDown_mem_presses_iff _ _, nodup_presses _ _⟩

/-- The order of R154: `f` does not release a key after `e` has pressed one. -/
def NoPressThenRelease (e f : Event) : Prop := ∀ j k, ¬(e = .keyDown j ∧ f = .keyUp k)

theorem keyDiff_pairwise_noPressThenRelease (old new : List Byte) : (keyDiff old new).Pairwise NoPressThenRelease := by
  have hfirst : ∀ e ∈ releases old new, ∀ f, NoPressThenRelease e f := by
    rintro e he f j k ⟨rfl, -⟩
    exact keyDown_not_mem_releases old new j he
  have hsecond : ∀ f ∈ presses old new, ∀ e, NoPressThenRelease e f := by
    rintro f hf e j k ⟨-, rfl⟩
    exact keyUp_not_mem_presses old new k hf
  refine List.pairwise_append.2 ⟨?_, ?_, fun e he f _ => hfirst e he f⟩
  · exact List.pairwise_of_forall_mem_list fun e he f _ => hfirst e he f
  · exact List.pairwise_of_forall_mem_list fun e _ f hf => hsecond f hf e

/-- Settles O37: a byte's events are none, one report, or the diff between its two snapshots. -/
theorem releasesComeBeforePresses : Obligations.ReleasesComeBeforePresses := by
  refine ⟨fun s t b rest hin hstep => ?step, fun old new k => ⟨?disjoint, fun hold hnew => ?stays⟩⟩
  case step =>
    cases byteStep_of_step hin hstep with
    | keyboard => exact ⟨keyDiff_pairwise_noPressThenRelease _ _, fun _ _ => rfl⟩
    | mouse _ _ _ _ _ _ _ _ _ hc =>
      exact ⟨List.pairwise_singleton _ _, fun hk => absurd (hk.symm.trans hc) (by decide)⟩
    | move | framing | command | length | payload | mismatch =>
      exact ⟨List.Pairwise.nil, fun _ he => (he rfl).elim⟩
  case disjoint =>
    rw [keyUp_mem_releases_iff, keyDown_mem_presses_iff]
    rintro ⟨⟨hold, -⟩, -, hnot⟩
    exact hnot hold
  case stays =>
    simp only [List.mem_append, keyUp_mem_releases_iff, keyUp_not_mem_presses, keyDown_not_mem_releases,
      keyDown_mem_presses_iff]
    tauto

end Sys2Proof.Machine
end

section
/-! The number of events (O38). -/

namespace Sys2Proof.Machine

theorem length_keysOnlyIn_eq_card (other slots : List Byte) :
    (keysOnlyIn other [] slots).length = ((slots.toFinset \ other.toFinset).erase Config.noKey).card := by
  rw [← List.toFinset_card_of_nodup (nodup_keysOnlyIn other [] slots)]
  congr 1
  ext k
  simp [mem_keysOnlyIn]

/-- Distinct keys that are all missing in the other array are all taken. -/
theorem length_le_keysOnlyIn {other slots : List Byte} (hnodup : slots.Nodup) (hkey : Config.noKey ∉ slots)
    (hother : ∀ k ∈ slots, k ∉ other) : slots.length ≤ (keysOnlyIn other [] slots).length := by
  refine (hnodup.subperm fun k hk => ?_).length_le
  exact (mem_keysOnlyIn ..).2 ⟨ne_of_mem_of_not_mem hk hkey, hk, hother k hk, List.not_mem_nil⟩

theorem length_releases (old new : List Byte) : (releases old new).length = (keysOnlyIn new [] old).length :=
  List.length_map _

theorem length_presses (old new : List Byte) : (presses old new).length = (keysOnlyIn old [] new).length :=
  List.length_map _

theorem length_keysOnlyIn_toList_le {n : Nat} (other : List Byte) (v : Vector Byte n) :
    (keysOnlyIn other [] v.toList).length ≤ n :=
  (keysOnlyIn_length other [] v.toList).trans_eq v.length_toList

theorem length_keyDiff_le (old new : Vector Byte Config.keySlots) :
    (keyDiff old.toList new.toList).length ≤ 12 := by
  rw [keyDiff, List.length_append, length_releases, length_presses]
  exact Nat.add_le_add (length_keysOnlyIn_toList_le _ old) (length_keysOnlyIn_toList_le _ new)

theorem ByteStep.length_events_le {s t : State} {b : Byte} (h : ByteStep s b t) : t.events.length ≤ 12 := by
  cases h with
  | keyboard => exact length_keyDiff_le _ _
  | mouse => exact Nat.succ_le_succ (Nat.zero_le _)
  | move | framing | command | length | payload | mismatch => exact Nat.zero_le _

/-- Settles O38: each phase counts the keys of one array that are not in the other. -/
theorem keyboardEventCountIsBounded : Obligations.KeyboardEventCountIsBounded := by
  simp only [Obligations.KeyboardEventCountIsBounded, length_releases, length_presses]
  refine ⟨fun old new => ?counts, fun old new hold hnew hkey hdisjoint => ?twelve, fun s t b rest hin hstep => ?step⟩
  case counts =>
    exact ⟨length_keysOnlyIn_eq_card _ _, length_keysOnlyIn_eq_card _ _,
      length_keysOnlyIn_toList_le _ old, length_keysOnlyIn_toList_le _ new⟩
  case twelve =>
    obtain ⟨holdKey, hnewKey⟩ := not_or.1 (mt List.mem_append.2 hkey)
    have hreleased := length_le_keysOnlyIn hold holdKey hdisjoint
    have hpressed := length_le_keysOnlyIn hnew hnewKey fun k hk hk' => hdisjoint k hk' hk
    have hreleased_le := length_keysOnlyIn_toList_le new.toList old
    have hpressed_le := length_keysOnlyIn_toList_le old.toList new
    rw [Vector.length_toList] at hreleased hpressed
    omega
  case step => exact (byteStep_of_step hin hstep).length_events_le

end Sys2Proof.Machine
end

section
/-! What the diff depends on: the key sets of the reports (O39), not the modifier or the reserved byte (O40), and of the
snapshot only its keys in first-occurrence order (O41). -/

namespace Sys2Proof.Machine

/-- A keyboard frame with the right checksum, taken from H1, as a whole next state. -/
theorem exec_frameKbd_of_valid {s : State} (hp : s.pst = .h1) (md rsv k0 k1 k2 k3 k4 k5 : Byte) :
    exec (.frameKbd md rsv k0 k1 k2 k3 k4 k5 (0x0C + md + rsv + k0 + k1 + k2 + k3 + k4 + k5)) s = .next { s with
      cmd := 0x02, len := 8, idx := 8, pay := #v[md, rsv, k0, k1, k2, k3, k4, k5],
      snapMod := md, snapKey := #v[k0, k1, k2, k3, k4, k5],
      delivered := s.delivered ++ s.events, events := keyDiff s.snapKey.toList [k0, k1, k2, k3, k4, k5] } :=
  (keyboardFrameIsRecognizedFromHunting s md rsv k0 k1 k2 k3 k4 k5 _ hp).trans (congrArg _ (if_pos rfl))

theorem keysOnlyIn_eq_nil {other slots : List Byte} (h : ∀ k, inKeys k slots → inKeys k other) :
    keysOnlyIn other [] slots = [] := by
  refine List.eq_nil_iff_forall_not_mem.2 fun k hk => ?_
  obtain ⟨hslots, hother⟩ := (mem_keysOnlyIn_iff_inKeys ..).1 hk
  exact hother (h k hslots)

/-- The same key set again is no event (R158). -/
theorem keyDiff_eq_nil {old new : List Byte} (h : ∀ k, inKeys k new ↔ inKeys k old) : keyDiff old new = [] := by
  rw [keyDiff, releases, presses, keysOnlyIn_eq_nil fun k => (h k).2, keysOnlyIn_eq_nil fun k => (h k).1]
  rfl

/-- Settles O39: the second frame's diff is taken against the first frame's slots. -/
theorem repeatedKeySetEmitsNothing : Obligations.RepeatedKeySetEmitsNothing := by
  intro s md rsv k0 k1 k2 k3 k4 k5 md' rsv' l0 l1 l2 l3 l4 l5 hp hkeys
  have hnil : keyDiff [k0, k1, k2, k3, k4, k5] [l0, l1, l2, l3, l4, l5] = [] := keyDiff_eq_nil hkeys
  refine ⟨_, _, exec_frameKbd_of_valid hp .., exec_frameKbd_of_valid (by exact hp) .., hnil, ?_, rfl, rfl⟩
  exact (congrArg _ hnil).trans (List.append_nil _)

/-- Settles O40: the diff reads neither byte, and a snapshot's own slots are no change. -/
theorem modifierAndReservedByteEmitNothing : Obligations.ModifierAndReservedByteEmitNothing := by
  intro s md rsv md' rsv' k0 k1 k2 k3 k4 k5 hp
  refine ⟨_, _, exec_frameKbd_of_valid hp .., exec_frameKbd_of_valid hp .., rfl, rfl, rfl, rfl, fun hsnap => ?_⟩
  exact keyDiff_eq_nil fun k => by rw [hsnap]; rfl

/-- The other array only takes keys out of the loop's result. -/
theorem keysOnlyIn_eq_filter (other seen slots : List Byte) :
    keysOnlyIn other seen slots = (keysOnlyIn [] seen slots).filter (· ∉ other) := by
  induction slots generalizing seen with
  | nil => rfl
  | cons j slots ih =>
    by_cases hfirst : j ≠ Config.noKey ∧ j ∉ seen
    · obtain ⟨hkey, hseen⟩ := hfirst
      rw [keysOnlyIn_cons_of_pos ⟨hkey, List.not_mem_nil, hseen⟩]
      by_cases hj : j ∈ other
      · rw [keysOnlyIn_cons_of_neg fun h => h.2.1 hj, List.filter_cons_of_neg (by simpa using hj), ih]
      · rw [keysOnlyIn_cons_of_pos ⟨hkey, hj, hseen⟩, List.filter_cons_of_pos (by simpa using hj), ih]
    · have hskip : ∀ l : List Byte, ¬(j ≠ Config.noKey ∧ j ∉ l ∧ j ∉ seen) := fun _ h => hfirst ⟨h.1, h.2.2⟩
      rw [keysOnlyIn_cons_of_neg (hskip _), keysOnlyIn_cons_of_neg (hskip _), ih]

/-- To pass the sentinel, or a key that was passed before, makes no difference to the loop. -/
theorem keysOnlyIn_passed {seen : List Byte} {j : Byte} (h : j = Config.noKey ∨ j ∈ seen) (other slots : List Byte) :
    keysOnlyIn other (seen ++ [j]) slots = keysOnlyIn other seen slots := by
  refine keysOnlyIn_congr slots (fun _ _ => Iff.rfl) fun k hk => ?_
  have hpassed : k = j → k ∈ seen := by
    rintro rfl
    exact h.resolve_left hk
  rw [List.mem_append, List.mem_singleton, or_iff_left_of_imp hpassed]

theorem firstKeys_cons_noKey (a : List Byte) : firstKeys (Config.noKey :: a) = firstKeys a := by
  rw [firstKeys, List.filter_cons_of_neg (by simp), firstKeys]

theorem firstKeys_cons_of_key {k : Byte} (hk : k ≠ Config.noKey) (a : List Byte) :
    firstKeys (k :: a) = k :: firstKeys (a.filter (· ≠ k)) := by
  rw [firstKeys, List.filter_cons_of_pos (by simpa using hk), List.eraseDups_cons, firstKeys, List.filter_comm]
  simp [bne, beq_eq_decide]

/-- With no other array the loop gives each key not passed before at its first slot. -/
theorem keysOnlyIn_nil_eq_firstKeys (seen slots : List Byte) :
    keysOnlyIn [] seen slots = firstKeys (slots.filter (· ∉ seen)) := by
  induction slots generalizing seen with
  | nil => rfl
  | cons j slots ih =>
    by_cases hseen : j ∈ seen
    · rw [keysOnlyIn_cons_of_neg fun h => h.2.2 hseen, keysOnlyIn_passed (.inr hseen), ih,
        List.filter_cons_of_neg (by simpa using hseen)]
    · rw [List.filter_cons_of_pos (by simpa using hseen)]
      by_cases hkey : j = Config.noKey
      · rw [keysOnlyIn_cons_of_neg fun h => h.1 hkey, keysOnlyIn_passed (.inl hkey), ih, hkey, firstKeys_cons_noKey]
      · rw [keysOnlyIn_cons_of_pos ⟨hkey, List.not_mem_nil, hseen⟩, ih, firstKeys_cons_of_key hkey, List.filter_filter]
        simp [and_comm]

theorem firstKeys_eq_keysOnlyIn (a : List Byte) : firstKeys a = keysOnlyIn [] [] a := by
  simp [keysOnlyIn_nil_eq_firstKeys]

theorem mem_firstKeys (a : List Byte) (k : Byte) : k ∈ firstKeys a ↔ inKeys k a := by
  rw [firstKeys_eq_keysOnlyIn, mem_keysOnlyIn_iff_inKeys]
  simp [inKeys]

/-- Settles O41: the releases are the first keys of the old array that are not in the new one, and the presses ask only
which keys are in the old array. -/
theorem onlyFirstOccurrencesOfTheSnapshotMatter : Obligations.OnlyFirstOccurrencesOfTheSnapshotMatter := by
  intro old old' new hfirst
  have hmem : ∀ k, k ≠ Config.noKey → (k ∈ old ↔ k ∈ old') := fun k hk => by
    have hkeys : inKeys k old ↔ inKeys k old' := by rw [← mem_firstKeys, ← mem_firstKeys, hfirst]
    exact and_congr_right_iff.1 hkeys hk
  have hreleased : keysOnlyIn new [] old = keysOnlyIn new [] old' := by
    rw [keysOnlyIn_eq_filter, keysOnlyIn_eq_filter new, ← firstKeys_eq_keysOnlyIn, ← firstKeys_eq_keysOnlyIn, hfirst]
  have hpressed : keysOnlyIn old [] new = keysOnlyIn old' [] new := keysOnlyIn_congr new hmem fun _ _ => Iff.rfl
  unfold releases presses
  rw [hreleased, hpressed]

end Sys2Proof.Machine
end

section
/-! A valid keyboard packet at the CK byte (O23). -/

namespace Sys2Proof.Machine

theorem toList_take_lenKbd (v : Vector Byte Config.payloadMax) :
    v.toList.take Config.lenKbd.toNat = [v[0], v[1], v[2], v[3], v[4], v[5], v[6], v[7]] := by
  have hv : v = #v[v[0], v[1], v[2], v[3], v[4], v[5], v[6], v[7]] := by
    ext i hi
    interval_cases i <;> rfl
  exact congrArg (·.toList.take Config.lenKbd.toNat) hv

/-- A keyboard packet is translated from its payload's slots (R142, R150). -/
theorem dispatch_kbd (md rsv k0 k1 k2 k3 k4 k5 n c : Byte) (s : State) :
    dispatch ⟨Config.cmdKbd, n, [md, rsv, k0, k1, k2, k3, k4, k5], c⟩ s =
      .next (kbdTranslate md rsv #v[k0, k1, k2, k3, k4, k5] s) := rfl

/-- Settles O23: the packet of the CK byte passes the verdict, and its translator replaces the snapshot. -/
theorem validKeyboardPacketDiffsAndReplacesTheSnapshot :
    Obligations.ValidKeyboardPacketDiffsAndReplacesTheSnapshot := by
  intro s b hc hn hsum
  have hlen : s.len.toNat ≤ Config.payloadMax := by rw [hn]; decide
  have hvalid : validate ⟨Config.cmdKbd, Config.lenKbd,
      [s.pay[0], s.pay[1], s.pay[2], s.pay[3], s.pay[4], s.pay[5], s.pay[6], s.pay[7]], b⟩ = true := by
    refine (validate_iff_of_constant (k := 0x0C) (by rfl) _ _).2 ?_
    simpa [← Nat.add_assoc] using hsum
  have hpacket : (⟨s.cmd, s.len, s.pay.toList.take s.len.toNat, b⟩ : Packet) = ⟨Config.cmdKbd, Config.lenKbd,
      [s.pay[0], s.pay[1], s.pay[2], s.pay[3], s.pay[4], s.pay[5], s.pay[6], s.pay[7]], b⟩ := by
    rw [hc, hn, toList_take_lenKbd]
  refine (execCkByte_eq b hlen).trans ?_
  rw [hpacket, completePacket_of_valid hvalid, dispatch_kbd]
  rfl

end Sys2Proof.Machine
end

section
/-! The mouse report's fields (O43), and a valid mouse packet at the CK byte (O22). -/

namespace Sys2Proof.Machine

/-- `btn = bt & 0x07` (R171). -/
theorem toNat_buttonsOf (bt : Byte) : (buttonsOf bt).toNat = bt.toNat % 8 := by
  simp [buttonsOf]

/-- `xbtn = (bt >> 3) & 0x03` (R171). -/
theorem toNat_extraButtonsOf (bt : Byte) : (extraButtonsOf bt).toNat = bt.toNat / 8 % 4 := by
  simp [extraButtonsOf, Nat.shiftRight_eq_div_pow]

/-- The report reads only `bt[4:0]` of the button byte, and not the reserved byte (R175). -/
theorem mouseReport_congr {bt bt' : Byte} (h : bt.toNat % 32 = bt'.toNat % 32) (dx dy wh rsv rsv' : Byte) :
    mouseReport bt' dx dy wh rsv' = mouseReport bt dx dy wh rsv := by
  have hbtn : buttonsOf bt' = buttonsOf bt := BitVec.eq_of_toNat_eq (by
    rw [toNat_buttonsOf, toNat_buttonsOf]; omega)
  have hxbtn : extraButtonsOf bt' = extraButtonsOf bt := BitVec.eq_of_toNat_eq (by
    rw [toNat_extraButtonsOf, toNat_extraButtonsOf]; omega)
  rw [mouseReport, mouseReport, hbtn, hxbtn]

/-- Settles O43: the two button fields are the low bits of `bt`, and the other bytes pass unchanged. -/
theorem mouseReportFieldsFollowThePayload : Obligations.MouseReportFieldsFollowThePayload := fun bt dx dy wh rsv =>
  ⟨toNat_buttonsOf bt, toNat_extraButtonsOf bt, rfl, rfl, rfl, rfl,
    fun _ rsv' h => mouseReport_congr h dx dy wh rsv rsv'⟩

/-- A mouse payload is the first five bytes of a keyboard payload. -/
theorem toList_take_lenMouse (v : Vector Byte Config.payloadMax) :
    v.toList.take Config.lenMouse.toNat = [v[0], v[1], v[2], v[3], v[4]] := by
  have htake := congrArg (List.take Config.lenMouse.toNat) (toList_take_lenKbd v)
  rwa [List.take_take] at htake

/-- A mouse packet is translated from its payload's five bytes (R142, R170). -/
theorem dispatch_mouse (bt dx dy wh rsv n c : Byte) (s : State) :
    dispatch ⟨Config.cmdMouse, n, [bt, dx, dy, wh, rsv], c⟩ s = .next (mouseTranslate bt dx dy wh rsv s) := rfl

/-- Settles O22: the packet of the CK byte passes the verdict, and its translator only emits the report. -/
theorem validMousePacketEmitsOneReport : Obligations.ValidMousePacketEmitsOneReport := by
  intro s b hc hn hsum
  have hlen : s.len.toNat ≤ Config.payloadMax := by rw [hn]; decide
  have hvalid : validate ⟨Config.cmdMouse, Config.lenMouse,
      [s.pay[0], s.pay[1], s.pay[2], s.pay[3], s.pay[4]], b⟩ = true := by
    refine (validate_iff_of_constant (k := 0x08) (by rfl) _ _).2 ?_
    simpa [← Nat.add_assoc] using hsum
  have hpacket : (⟨s.cmd, s.len, s.pay.toList.take s.len.toNat, b⟩ : Packet) = ⟨Config.cmdMouse, Config.lenMouse,
      [s.pay[0], s.pay[1], s.pay[2], s.pay[3], s.pay[4]], b⟩ := by
    rw [hc, hn, toList_take_lenMouse]
  refine (execCkByte_eq b hlen).trans ?_
  rw [hpacket, completePacket_of_valid hvalid, dispatch_mouse]
  rfl

end Sys2Proof.Machine
end

section
/-! What stops the block, and what a byte discards (chapter 60): no sequence of bytes stops it (O46), of all inputs only
a sink that refuses an offered event for ever does (O47, O3), and a byte discards at most once (O53). -/

namespace Sys2Proof.Machine

/-- Settles O46: a run of bytes is its bytes fed one by one, and each is taken and keeps the invariant. -/
theorem noByteSequenceStopsTheBlock : Obligations.NoByteSequenceStopsTheBlock := by
  intro s bs hs
  obtain ⟨t, ht⟩ := feedBytes_completes hs bs
  exact ⟨t, (runBytes_eq_feedBytes bs s).trans ht, feedBytes_keeps_inv hs ht, feedBytes_input ht⟩

/-- In a reachable state the step on a burst completes (R200). -/
theorem step_burst_completes {s : State} (hs : s.Inv) {bs : List Byte} {rest : List Input}
    (hin : s.input = .burst bs :: rest) : ∃ t, step s = .next t := by
  obtain ⟨t, ht⟩ := feedBytes_completes (s := { s with input := rest }) hs bs
  exact ⟨t, (step_input hin).trans ((takeBurst_eq_feedBytes bs _).trans ht)⟩

/-- Settles O47: bytes and bursts are taken in every reachable state, and a reset or a wait in every state. -/
theorem onlyARefusingSinkStopsTheBlock : Obligations.OnlyARefusingSinkStopsTheBlock := by
  intro s hs hserves
  cases hin : s.input with
  | nil => exact ⟨s, step_waiting hin⟩
  | cons i rest =>
    cases i with
    | byte => exact step_byte_completes hs hin
    | burst => exact step_burst_completes hs hin
    | rst | rstDelivering => exact ⟨_, step_input hin⟩
    | sinkStall => exact absurd (congrArg List.head? hin) hserves

/-- The discard condition of each framer state (R201, R205). -/
theorem ByteStep.notes_eq_or_discard {s t : State} {b : Byte} (h : ByteStep s b t) :
    t.notes = s.notes ∨ ∃ d, t = (s.beginStep.setPst .h1).note d ∧
      ((s.pst = .h2 ∧ d = .framingHdr2) ∨ (s.pst = .cm ∧ d = .framingMarker) ∨ (s.pst = .cmd ∧ d = .framingCommand) ∨
        (s.pst = .len ∧ d = .framingLength) ∨ (s.pst = .ck ∧ d = .checksumMismatch)) := by
  cases h with
  | move | command | length | payload | keyboard | mouse => exact .inl rfl
  | framing d hd =>
    refine .inr ⟨d, rfl, ?_⟩
    rcases hd with ⟨hp, -, hd⟩ | ⟨hp, -, hd⟩ | ⟨hp, -, -, hd⟩ | ⟨hp, -, -, hd⟩ <;> simp [hp, hd]
  | mismatch _ hp => exact .inr ⟨_, rfl, by simp [hp]⟩

/-- Settles O53: of all a byte can do, only a framing error and a packet that fails its checksum note a discard. -/
theorem atMostOneDiscardPerByte : Obligations.AtMostOneDiscardPerByte :=
  fun _ _ _ _ hin hstep => (byteStep_of_step hin hstep).notes_eq_or_discard

theorem takeSinkStall_of_offered {s : State} (h : s.events ≠ []) : takeSinkStall s = .fault .sinkStalled :=
  if_neg h

theorem takeSinkStall_of_nothing_offered {s : State} (h : s.events = []) : takeSinkStall s = .next s :=
  if_pos h

/-- Settles O3: the step only takes the stall off the input. -/
theorem sinkThatNeverAcceptsStopsTheRun : Obligations.SinkThatNeverAcceptsStopsTheRun := by
  intro s rest hin
  rw [step_input hin]
  exact ⟨takeSinkStall_of_offered (s := { s with input := rest }),
    takeSinkStall_of_nothing_offered (s := { s with input := rest })⟩

end Sys2Proof.Machine
end

section
/-! A reset during delivery (O2): the `k` events accepted so far are a prefix of the step's events, and each prefix is
the events accepted so far at the moment its length tells (R221, U9). -/

namespace Sys2Proof.Machine

theorem step_rstDelivering {s : State} {k : Nat} {rest : List Input} (hin : s.input = .rstDelivering k :: rest) :
    step s = .next (State.applyReset { s with input := rest } k) :=
  step_input hin

/-- What the sink has been told when the reset is done: all it accepted before, and nothing after (R220, R221). -/
@[simp] theorem State.applyReset_observed (s : State) (k : Nat) :
    (s.applyReset k).observed = s.delivered ++ s.events.take k :=
  List.append_nil _

/-- Settles O2: the sink has taken the first `k` events, and a prefix is taken where `k` is its length. -/
theorem resetDuringDeliveryLeavesAnyPrefix : Obligations.ResetDuringDeliveryLeavesAnyPrefix := by
  refine fun s rest => ⟨fun k hin => ?_, fun p hp => ?_⟩
  · exact ⟨_, s.events.take k, step_rstDelivering hin, List.take_prefix k s.events, rfl, rfl, rfl, rfl, rfl, rfl⟩
  · refine ⟨p.length, _, step_rstDelivering rfl, ?_⟩
    rw [State.applyReset_observed, ← List.prefix_iff_eq_take.1 hp]

end Sys2Proof.Machine
end

section
/-! The bytes and frames written out from the spec (O7), which are the encodings of the rows they decode to. -/

namespace Sys2Proof

/-- Settles O7: each byte is the encoding of the row that applies in its context (O9), and each of the two frames is an
encoding with nothing after it (O10). -/
theorem wordsOfTheSpecDecode : Obligations.WordsOfTheSpecDecode := by
  refine ⟨?h1Hdr1, ?h1Idle, ?h2Hdr2, ?h2Err, ?cmMark, ?cmdKbd, ?lenMouse, ?lenErr, ?plLast, ?ckByte,
    decodeFrame_encode (i := .frameMouse 0x0B 0xFB 0x0A 0xFF 0x00 0x17) rfl [],
    decodeFrame_encode (i := .frameKbd 0x00 0x00 0x04 0x05 0x00 0x00 0x00 0x00 0x15) rfl []⟩
  all_goals exact decodeByte_of_appliesIn rfl (by decide) rfl

end Sys2Proof
end
